-- ==== Sys2Proof/Word.lean ====
section
/-! DEFINITION. The plain bit-vector types of B39EC (00_scope.md R10, 10_state.md R54, 30_encoding.md R90 to R92). -/

namespace Sys2Proof

/-- A byte (R10): bit 7 is the most significant. -/
abbrev Byte := BitVec 8

/-- A value as it travels on the host port: 16 bits, bit 0 least significant (R54, R78). -/
abbrev Half := BitVec 16

/-- A word index, 0 to 2047 (R8 IDX_BITS, R96). -/
abbrev Idx := BitVec 11

/-- A host register number `rn`, 0x000 to 0x1FF (R54). -/
abbrev RegNum := BitVec 9

/-- A word of format CMD (R92). -/
abbrev CmdWord := BitVec 16

/-- A transaction of format BUS (R91). -/
abbrev BusWord := BitVec 26

/-- The answer of the SHA port: 32 bytes, first byte first (R180). -/
abbrev Digest := Vector Byte 32

end Sys2Proof
end

