-- ==== Sys2Proof/Syntax.lean ====
section
/-! DEFINITION. The instructions of B39EC: one constructor per row of spec/opcode_table.json, eight commands (30_encoding.md
R93) and eight host transactions (R95), and the two word formats they are read from (R90). -/

namespace Sys2Proof

/-- The operations of B39EC (40_host_port.md R120: these sixteen and the illegal word, and nothing else executes). A
command constructor stands for the COMPLETION of that command; a host transaction for one access on the host port. Bits the
spec says are ignored are no operands. -/
inductive Instr where
  /-- NOP, R170. -/
  | nop
  /-- LOADE, R131. -/
  | loade
  /-- RANDE, R133. -/
  | rande
  /-- ENCODE, R142. -/
  | encode
  /-- DECODE, R145. -/
  | decode
  /-- VERIFY, R149. -/
  | verify
  /-- SEED, R160. -/
  | seed
  /-- CLR with its group mask M, R94 and R171. -/
  | clr (m : BitVec 4)
  /-- WRCTRL, R110. -/
  | wrctrl (ie strict : Bool)
  /-- The command write, R116; any 16-bit word. -/
  | cmdwr (w : CmdWord)
  /-- ACK, R117; `a` is data bit 0. -/
  | ack (a : Bool)
  /-- WRLANG, R111; any code, 10 to 15 being ignored by the write. -/
  | wrlang (code : BitVec 4)
  /-- EPUSH, R112. -/
  | epush (b : Byte)
  /-- IPUSH, R113; `unk` is data bit 15, the unknown-word marker. -/
  | ipush (unk : Bool) (n : Idx)
  /-- PPUSH, R114. -/
  | ppush (b : Byte)
  /-- RD, R118. -/
  | rd (rn : RegNum)
  deriving DecidableEq, Repr

/-- An instruction as the hardware receives it (R90): a command word latched from a write to CMD, or one host transaction. -/
inductive CodeWord where
  /-- A word of format CMD, R92. -/
  | cmd (w : CmdWord)
  /-- A transaction of format BUS, R91. -/
  | bus (b : BusWord)
  deriving DecidableEq, Repr

end Sys2Proof
end

