-- ==== Sys2Proof/WellFormed.lean ====
section
/-! DEFINITION. Which words are instructions (30_encoding.md R92, R95, R97, R100). An `Instr` cannot be ill-formed: each
operand's type admits exactly the values its encoding admits. The checks are therefore on words. -/

namespace Sys2Proof

/-- R97: OP is not 0x8 to 0xF. -/
def WellFormed.opAssigned (w : CmdWord) : Bool := decide ((w.extractLsb' 0 4).toNat < 8)

/-- R92: the reserved field Z0, bits 7:4, is 0. -/
def WellFormed.z0Zero (w : CmdWord) : Bool := w.extractLsb' 4 4 == 0

/-- R92: the reserved field Z1, bits 15:12, is 0. -/
def WellFormed.z1Zero (w : CmdWord) : Bool := w.extractLsb' 12 4 == 0

/-- R92: the mask M, bits 11:8, is 0 unless OP is CLR. -/
def WellFormed.maskAllowed (w : CmdWord) : Bool := w.extractLsb' 8 4 == 0 || w.extractLsb' 0 4 == 7

/-- A legal CMD word: one that R97 does not call illegal. -/
def WellFormed.legalCmd (w : CmdWord) : Bool :=
  WellFormed.opAssigned w && WellFormed.z0Zero w && WellFormed.z1Zero w && WellFormed.maskAllowed w

/-- R95, R72: the register numbers whose write does something. -/
def WellFormed.writable (rn : RegNum) : Bool :=
  [0x001, 0x002, 0x003, 0x006, 0x010, 0x011, 0x012].contains rn.toNat

/-- A BUS transaction that is one of the eight operations of R95: any read, or a write to a writable register. -/
def WellFormed.operation (b : BusWord) : Bool := !b.getLsbD 25 || WellFormed.writable (b.extractLsb' 16 9)

/-- The words that stand for an instruction. -/
def CodeWord.wellFormed : CodeWord → Bool
  | .cmd w => WellFormed.legalCmd w
  | .bus b => WellFormed.operation b

end Sys2Proof
end

