-- ==== Sys2Proof/Decode.lean ====
section
/-! DEFINITION. The decoder, total on every word of both formats and rejecting by name, and the encoder written from the
same tables (30_encoding.md R91 to R97, R100). The hardware stores no instructions and has no byte stream (R78, R83): a
command word is the data of one CMD write, a transaction is one cycle's values on the pins. -/

namespace Sys2Proof

/-- Why a word is no instruction. Neither stops the machine: the spec gives both an effect (Machine/Clock.lean). -/
inductive Reject where
  /-- R97: a CMD word that matches no row; the sequencer completes it with IllegalCommand (R173). -/
  | illegalCommand (w : CmdWord)
  /-- R72, R100: a BUS write to a read-only or reserved register number; it does nothing. -/
  | unmappedWrite (rn : RegNum)
  deriving DecidableEq, Repr

/-- Field OP, bits 3:0 of a CMD word (R92). -/
def cmdOp (w : CmdWord) : BitVec 4 := w.extractLsb' 0 4

/-- Field Z0, bits 7:4 (R92). -/
def cmdZ0 (w : CmdWord) : BitVec 4 := w.extractLsb' 4 4

/-- Field M, bits 11:8 (R92). -/
def cmdM (w : CmdWord) : BitVec 4 := w.extractLsb' 8 4

/-- Field Z1, bits 15:12 (R92). -/
def cmdZ1 (w : CmdWord) : BitVec 4 := w.extractLsb' 12 4

/-- Field `we`, bit 25 of a transaction: 1 write, 0 read (R91). -/
def busWe (b : BusWord) : Bool := b.getLsbD 25

/-- Field `rn`, bits 24:16 (R91). -/
def busRn (b : BusWord) : RegNum := b.extractLsb' 16 9

/-- Field `data`, bits 15:0 (R91). -/
def busData (b : BusWord) : Half := b.extractLsb' 0 16

/-- The command a CMD word names (R93, R94, R97). -/
def decodeCmd (w : CmdWord) : Except Reject Instr :=
  if cmdZ1 w ≠ 0 ∨ cmdZ0 w ≠ 0 then .error (.illegalCommand w)
  else if cmdOp w = 7 then .ok (.clr (cmdM w))
  else if cmdM w ≠ 0 then .error (.illegalCommand w)
  else if cmdOp w = 0 then .ok .nop
  else if cmdOp w = 1 then .ok .loade
  else if cmdOp w = 2 then .ok .rande
  else if cmdOp w = 3 then .ok .encode
  else if cmdOp w = 4 then .ok .decode
  else if cmdOp w = 5 then .ok .verify
  else if cmdOp w = 6 then .ok .seed
  else .error (.illegalCommand w)

/-- The write operation on register number `rn` with write data `d` (R95). -/
def decodeWrite (rn : RegNum) (d : Half) : Except Reject Instr :=
  if rn = 0x001 then .ok (.wrctrl (d.getLsbD 1) (d.getLsbD 0))
  else if rn = 0x002 then .ok (.cmdwr d)
  else if rn = 0x003 then .ok (.ack (d.getLsbD 0))
  else if rn = 0x006 then .ok (.wrlang (d.extractLsb' 0 4))
  else if rn = 0x010 then .ok (.epush (d.extractLsb' 0 8))
  else if rn = 0x011 then .ok (.ipush (d.getLsbD 15) (d.extractLsb' 0 11))
  else if rn = 0x012 then .ok (.ppush (d.extractLsb' 0 8))
  else .error (.unmappedWrite rn)

/-- The operation a host transaction names (R91, R95): a read names any register number and its data bits are ignored. -/
def decodeBus (b : BusWord) : Except Reject Instr :=
  if busWe b then decodeWrite (busRn b) (busData b) else .ok (.rd (busRn b))

/-- The decoder. -/
def decode : CodeWord → Except Reject Instr
  | .cmd w => decodeCmd w
  | .bus b => decodeBus b

/-- A CMD word from its two free fields; Z1 and Z0 are 0 (R92). -/
def cmdWord (m op : BitVec 4) : CmdWord := (0 : BitVec 4) ++ m ++ (0 : BitVec 4) ++ op

/-- A transaction from its three fields (R91). -/
def busWord (we : Bool) (rn : RegNum) (d : Half) : BusWord := BitVec.ofBool we ++ rn ++ d

/-- The encoder: the word of each instruction, ignored bits 0 (R93, R95; R91 writes a read's data as 0). -/
def encode : Instr → CodeWord
  | .nop => .cmd (cmdWord 0 0)
  | .loade => .cmd (cmdWord 0 1)
  | .rande => .cmd (cmdWord 0 2)
  | .encode => .cmd (cmdWord 0 3)
  | .decode => .cmd (cmdWord 0 4)
  | .verify => .cmd (cmdWord 0 5)
  | .seed => .cmd (cmdWord 0 6)
  | .clr m => .cmd (cmdWord m 7)
  | .wrctrl ie strict => .bus (busWord true 0x001 ((0 : BitVec 14) ++ BitVec.ofBool ie ++ BitVec.ofBool strict))
  | .cmdwr w => .bus (busWord true 0x002 w)
  | .ack a => .bus (busWord true 0x003 ((0 : BitVec 15) ++ BitVec.ofBool a))
  | .wrlang code => .bus (busWord true 0x006 ((0 : BitVec 12) ++ code))
  | .epush b => .bus (busWord true 0x010 ((0 : BitVec 8) ++ b))
  | .ipush unk n => .bus (busWord true 0x011 (BitVec.ofBool unk ++ (0 : BitVec 4) ++ n))
  | .ppush b => .bus (busWord true 0x012 ((0 : BitVec 8) ++ b))
  | .rd rn => .bus (busWord false rn 0)

/-- The word of spec/opcode_table.json with `nbits` bits (in whole bytes) and value `w`: rows of format CMD have 16 bits,
rows of format BUS 26, which is 32 in whole bytes. A value with a bit above its format is no word of it. -/
def codeWordOfTable (nbits w : Nat) : Option CodeWord :=
  if nbits ≤ 16 then (if w < 2 ^ 16 then some (.cmd (BitVec.ofNat 16 w)) else none)
  else if nbits ≤ 32 then (if w < 2 ^ 26 then some (.bus (BitVec.ofNat 26 w)) else none)
  else none

/-- What the decoder reads from a table word (`none` where it rejects). -/
def decodeTableWord (nbits w : Nat) : Option Instr :=
  match codeWordOfTable nbits w with
  | none => none
  | some c =>
    match decode c with
    | .ok i => some i
    | .error _ => none

end Sys2Proof
end

