-- ==== Sys2Proof/Config.lean ====
section
/-! DEFINITION. What the spec leaves to the implementation, the platform or chance (00_scope.md R9,
45_external_ports.md, 93_implementation_defined.md section 1). Every constant but the default of PASS_MAX is opaque: it
has no body, so nothing can be proved of its value and a theorem about the model holds whatever the value is. PASS_MAX (R9)
itself is the length of the register file PASS in State. -/

namespace Sys2Proof

/-- The default of PASS_MAX (R9). Only State.reset uses it: a state's own PASS_MAX is the length of its PASS. -/
def Config.passMaxDefault : Nat := 256

/-- The function behind the SHA port (R181): total, of the message alone; the model knows nothing else of it. -/
opaque Config.sha256 : List Byte → Digest

/-- The function behind the KDF port (R185): password, salt, iteration count, output length; the output has `dkLen` bytes
and depends on the four arguments alone. -/
opaque Config.pbkdf2 : List Byte → List Byte → Nat → (dkLen : Nat) → Vector Byte dkLen

/-- FREE VALUE. The answer of the RNG port (R189): a draw under no law, one per value of State's counter `fresh`. -/
opaque Config.rngDraw : Nat → Vector Byte 32

/-- FREE VALUE. T_BUSY of a command that asks no oracle (R9, U3): the clock cycles it stays in BUSY beyond the first, for
the command accepted when State's counter `fresh` has the given value. DESIGN CHOICE: of the counter alone, not of the command or the
data, which the spec leaves open (R267, U17; notes/assumptions/23.md). -/
opaque Config.tBusy : Nat → Nat

/-- FREE VALUE. The same for a command that asks an oracle (R190, R262): `none` is an oracle that never answers, and the
command then never completes. DESIGN CHOICE: of the counter alone, as for `tBusy`. -/
opaque Config.oracleWait : Nat → Option Nat

/-- FREE VALUE. What a read presented in a cycle with `rst` = 1 returns (R250, U2). -/
opaque Config.resetRead : Nat → Half

/-- FREE VALUE. `MS_of_ELEN` outside its five rows (R8 leaves it undefined there); reached only by an ENCODE from a state
outside the invariants of R53 (U11). -/
opaque Config.msOutsideTable : Byte → Byte

/-- FREE VALUE. The number whose bits stand for `bin_n(v)` when `v` does not fit in `n` bits (R10 defines `bin_n` below
`2^n` only); reached only from a state outside the invariants of R53. -/
opaque Config.binOutOfRange : Nat → Nat → Nat

/-- FREE VALUE. `ENT[j]` for `j` of 32 and more, a register that does not exist (R25); reached only by a command that reads
`ENT[0..ELEN-1]` with ELEN over 32, in a state outside the invariants of R53. -/
opaque Config.entBeyond : Nat → Byte

/-- FREE VALUE. The same for `PASS[i]` with `i` of PASS_MAX and more (R29). -/
opaque Config.passBeyond : Nat → Byte

end Sys2Proof
end

