-- ==== Sys2Proof/Machine/State.lean ====
section
/-! DEFINITION. The state of B39EC as plain data (10_state.md R21, R57) with the two agents around it: the host and its
pending cycles (R20, R55), and the sequencer's wait for its oracles (R24, R262). -/

namespace Sys2Proof.Machine

/-- PHASE (R22); its value 3 is never taken, so three names are all. -/
inductive Phase where
  /-- 0: waiting for a write to CMD. -/
  | idle
  /-- 1: a command is in flight. -/
  | busy
  /-- 2: the fatal error occurred; left only by reset. -/
  | fault
  deriving DecidableEq, Repr

/-- What the host does with one clock cycle (R20, R55, R70, R99, R250). -/
inductive HostCycle where
  /-- `h_sel` = 0: no access. -/
  | quiet
  /-- `h_sel` = 1: the access whose pin groups are this BUS word (R91). -/
  | access (b : BusWord)
  /-- The pseudo-operation `wait` of R99: `rd STATUS` in this cycle, and again in the next until bit 1 (BUSY) reads 0. -/
  | wait
  /-- `rst` = 1 at this cycle's edge, with the access presented in the cycle, if any (R250). -/
  | reset (b : Option BusWord)
  deriving DecidableEq, Repr

/-- The state. The fields down to `done` are the spec's (R21); the last four are the model's own. -/
structure State where
  /-- PHASE, R22. -/
  phase : Phase
  /-- OPC, R23: the command word latched at acceptance. -/
  opc : CmdWord
  /-- ENT[0..31], R25. -/
  ent : Vector Byte 32
  /-- ELEN, R26. -/
  elen : Byte
  /-- IDX[0..23], R27. -/
  idx : Vector Idx 24
  /-- WCNT, R28. -/
  wcnt : Byte
  /-- PASS[0..PASS_MAX-1], R29: the list's length is the parameter PASS_MAX (R9), which no step changes. -/
  pass : List Byte
  /-- PLEN, R30. -/
  plen : BitVec 9
  /-- SEED[0..63], R31. -/
  seed : Vector Byte 64
  /-- CSUM, R32. -/
  csum : Byte
  /-- CSLEN, R33. -/
  cslen : BitVec 4
  /-- ECS, R34. -/
  ecs : Byte
  /-- UNKSEEN, R35. -/
  unkseen : Bool
  /-- UNKPOS, R35. -/
  unkpos : Byte
  /-- POVF, R36. -/
  povf : Bool
  /-- CTRL bit 0, STRICT, R38. -/
  strict : Bool
  /-- CTRL bit 1, IE, R38. -/
  ie : Bool
  /-- LANG, R43. -/
  lang : BitVec 4
  /-- ERR, R41. -/
  err : BitVec 4
  /-- ERRINFO, R42. -/
  errinfo : Half
  /-- EVALID, R45. -/
  evalid : Bool
  /-- IVALID, R46. -/
  ivalid : Bool
  /-- DVALID, R47. -/
  dvalid : Bool
  /-- CSOK, R48. -/
  csok : Bool
  /-- SVALID, R49. -/
  svalid : Bool
  /-- DONE, R50. -/
  done : Bool
  /-- MODEL'S OWN: what the host will do in the coming cycles, the next one first; when the list is empty the host is quiet. -/
  host : List HostCycle
  /-- MODEL'S OWN: the value last returned on `h_rdata` (R55, R70), as the host holds it. -/
  rdata : Half
  /-- MODEL'S OWN: in BUSY, how many cycles pass before the cycle of the completion step (R24, T_BUSY); `none` when the oracle asked
  never answers (R262). Read in no other phase. -/
  wait : Option Nat
  /-- MODEL'S OWN: the counter the free values of Config are drawn by. -/
  fresh : Nat
  deriving DecidableEq, Repr

/-- What can stop the machine: nothing. Every host access and every command has a defined effect in every phase (R244), and
the spec's FAULT is a phase of State, not a stop. -/
inductive Fault where
  deriving DecidableEq, Repr

/-- What the model refuses. -/
inductive Refusal where
  /-- Raised by exec's arm of an instruction that has no meaning yet (none at present). Safe: nothing is claimed of it. -/
  | notModelled (mnemonic : String)
  deriving DecidableEq, Repr

/-- The state after reset (R57). PASS_MAX has the spec's default 256 (R9); the host has nothing to do. -/
def State.reset : State where
  phase := .idle
  opc := 0
  ent := Vector.replicate 32 0
  elen := 0
  idx := Vector.replicate 24 0
  wcnt := 0
  pass := List.replicate Config.passMaxDefault 0
  plen := 0
  seed := Vector.replicate 64 0
  csum := 0
  cslen := 0
  ecs := 0
  unkseen := false
  unkpos := 0
  povf := false
  strict := false
  ie := false
  lang := 0
  err := 0
  errinfo := 0
  evalid := false
  ivalid := false
  dvalid := false
  csok := false
  svalid := false
  done := false
  host := []
  rdata := 0
  wait := none
  fresh := 0

end Sys2Proof.Machine
end

