-- ==== Sys2Proof/Machine/Flags.lean ====
section
/-! DEFINITION. The views that are functions of the state: STATUS (10_state.md R40, R51), CTRL (R38), SEP (R44), and the
interrupt line (60_exceptions.md R238). B39EC has no arithmetic condition codes (R40). -/

namespace Sys2Proof.Machine

/-- STATUS bit 1 (R51). -/
def busyFlag (s : State) : Bool := decide (s.phase = .busy)

/-- STATUS bit 3 (R51). -/
def fatalFlag (s : State) : Bool := decide (s.phase = .fault)

/-- STATUS bit 2: the ERR register is not 0 (R40). -/
def errFlag (s : State) : Bool := s.err != 0

/-- STATUS (R40), bit 15 first: five reserved bits, POVF, UNKSEEN, SVALID, CSOK, DVALID, IVALID, EVALID, FATAL, ERR, BUSY,
DONE. -/
def statusWord (s : State) : Half :=
  (0 : BitVec 5) ++ BitVec.ofBool s.povf ++ BitVec.ofBool s.unkseen ++ BitVec.ofBool s.svalid ++ BitVec.ofBool s.csok
    ++ BitVec.ofBool s.dvalid ++ BitVec.ofBool s.ivalid ++ BitVec.ofBool s.evalid ++ BitVec.ofBool (fatalFlag s)
    ++ BitVec.ofBool (errFlag s) ++ BitVec.ofBool (busyFlag s) ++ BitVec.ofBool s.done

/-- CTRL as it reads: STRICT in bit 0, IE in bit 1, the rest 0 (R38). -/
def ctrlWord (s : State) : Half := (0 : BitVec 14) ++ BitVec.ofBool s.ie ++ BitVec.ofBool s.strict

/-- SEP: U+3000 for Japanese (code 7), U+0020 for every other language (R44). -/
def sepWord (s : State) : Half := if s.lang = 7 then 0x3000 else 0x0020

/-- The interrupt output: `irq = CTRL.IE and DONE`, a level (R238). -/
def irq (s : State) : Bool := s.ie && s.done

end Sys2Proof.Machine
end

