-- ==== Sys2Proof/Machine/Operands.lean ====
section
/-! DEFINITION. Bit sequences, the table TRIPLES, the checksum, packing and stripping: the data forms the commands work on
(00_scope.md R8, R10; 41_entropy_commands.md R130; 42_codec_commands.md R140, R141, R144), and the operands they read from
the register files. Quantities are naturals and every division is exact (20_memory.md R84). -/

namespace Sys2Proof.Machine

/-! ## Bit sequences (R10): a list of bits, the first and most significant bit at the head -/

/-- The `n` low bits of `v`, most significant first: `bin_n(v)` where `v < 2^n` (R10). -/
def bin (n v : Nat) : List Bool := (List.range n).map fun k => v.testBit (n - 1 - k)

/-- `bin_n(v)` for any `v`: R10 defines it for `v < 2^n`; beyond that the bits are free (notes/assumptions/7.md). -/
def binFree (n v : Nat) : List Bool := if v < 2 ^ n then bin n v else bin n (Config.binOutOfRange n v)

/-- `uint(B)` (R10): the number whose binary numeral is `B`, most significant bit first. -/
def uint (B : List Bool) : Nat := B.foldl (fun a b => 2 * a + b.toNat) 0

/-- `B[i ..+ n]` (R10). -/
def slice (B : List Bool) (i n : Nat) : List Bool := (B.drop i).take n

/-- `bitsof(b0, ..., bk)` (R10): the bytes in order, each most significant bit first. -/
def bitsOf (bytes : List Byte) : List Bool := bytes.flatMap fun b => bin 8 b.toNat

/-! ## TRIPLES (R8) -/

/-- One row of TRIPLES: entropy bytes, checksum bits, words. -/
structure Triple where
  elen : Nat
  cs : Nat
  ms : Nat
  deriving DecidableEq, Repr

/-- TRIPLES: the five legal rows, "one static lookup table" (R8). -/
def triples : List Triple := [⟨16, 4, 12⟩, ⟨20, 5, 15⟩, ⟨24, 6, 18⟩, ⟨28, 7, 21⟩, ⟨32, 8, 24⟩]

/-- The row of an entropy length; `none` outside ENT_BYTES (R8). -/
def tripleOfElen (n : Nat) : Option Triple := triples.find? fun t => t.elen == n

/-- The row of a word count; `none` outside WORD_COUNTS (R8). -/
def tripleOfMs (m : Nat) : Option Triple := triples.find? fun t => t.ms == m

/-! ## The checksum (R130) -/

/-- `Checksum` of an entropy of `len` bytes whose digest is `d`: the length in bits and the leading bits as a number (R130). -/
def checksumOf (d : Digest) (len : Nat) : Nat × Nat := (len / 4, uint (slice (bitsOf d.toList) 0 (len / 4)))

/-- `Checksum(E, L)` (R130); `sha` is the function behind the SHA port, a named argument as R181 has it. -/
def checksum (sha : List Byte → Digest) (e : List Byte) : Nat × Nat := checksumOf (sha e) e.length

/-! ## Pack (R140, R141) -/

/-- `Packed(E, L)` with the checksum `(cs, c)` given: the entropy bits, then the `cs` checksum bits (R140, conflict C1). -/
def packed (e : List Byte) (cs c : Nat) : List Bool := bitsOf e ++ binFree cs c

/-- The whole 11-bit groups of a bit sequence, each as a big-endian number (R141). -/
def groups (B : List Bool) : List Idx :=
  (List.range (B.length / 11)).map fun i => BitVec.ofNat 11 (uint (slice B (11 * i) 11))

/-- `Indices(E, L)` (R141). -/
def indices (sha : List Byte → Digest) (e : List Byte) : List Idx :=
  groups (packed e (checksum sha e).1 (checksum sha e).2)

/-! ## Strip (R144) -/

/-- What `Unpack` returns: the recovered entropy (its length is L), the checksum length, the embedded checksum (R144). -/
structure Unpacked where
  ent : List Byte
  cs : Nat
  x : Nat
  deriving DecidableEq, Repr

/-- The bits of an index sequence: 11 big-endian bits each, in order (R144). -/
def indexBits (ns : List Idx) : List Bool := ns.flatMap fun n => bin 11 n.toNat

/-- `Unpack(N, m)` with `m` the number of indices; `none` where the word count is not legal (R144). -/
def unpack (ns : List Idx) : Option Unpacked :=
  match tripleOfMs ns.length with
  | none => none
  | some t =>
    let B := indexBits ns
    let len := (11 * ns.length - t.cs) / 8
    some
      { ent := (List.range len).map fun j => BitVec.ofNat 8 (uint (slice B (8 * j) 8))
        cs := t.cs
        x := uint (slice B (8 * len) t.cs) }

/-! ## Operands read from the register files -/

/-- `ENT[0], ..., ENT[ELEN-1]` (R130, R142, R160); an entry that does not exist is a free value (notes/assumptions/8.md). -/
def entropyOf (s : State) : List Byte :=
  (List.range s.elen.toNat).map fun j => if j < 32 then s.ent.getD j 0 else Config.entBeyond j

/-- `IDX[0], ..., IDX[WCNT-1]` (R145), for a WCNT of at most 24. -/
def indicesOf (s : State) : List Idx := s.idx.toList.take s.wcnt.toNat

/-- What DECODE's Unpack gives for the indices held; `none` where WCNT is no legal word count (R145). -/
def unpackHeld (s : State) : Option Unpacked :=
  match tripleOfMs s.wcnt.toNat with
  | none => none
  | some _ => unpack (indicesOf s)

/-- PASS_MAX (R9): how many registers PASS has. -/
def passMax (s : State) : Nat := s.pass.length

/-- `PASS[0], ..., PASS[PLEN-1]` (R160); an entry that does not exist is a free value (notes/assumptions/8.md). -/
def passphraseOf (s : State) : List Byte :=
  (List.range s.plen.toNat).map fun i => if i < passMax s then s.pass.getD i 0 else Config.passBeyond i

/-- SALT_PREFIX (R8): the eight bytes of "mnemonic" (R161). -/
def saltPrefix : List Byte := [0x6D, 0x6E, 0x65, 0x6D, 0x6F, 0x6E, 0x69, 0x63]

/-- The salt: the prefix, then the passphrase bytes (R160, R161). -/
def saltOf (s : State) : List Byte := saltPrefix ++ passphraseOf s

/-- A register file of `n` entries holding `l` from entry 0 on and zeros after it (R142, R145). Irreducible, so that a proof that
compares two states does not compute it; its law is `getD_fill`. -/
@[irreducible] def fill {w : Nat} (n : Nat) (l : List (BitVec w)) : Vector (BitVec w) n := Vector.ofFn fun i => l.getD i 0

end Sys2Proof.Machine
end

