-- ==== Sys2Proof/Machine/Ops.lean ====
section
/-! DEFINITION. The operations the instructions share: reading a register (20_memory.md R71, R75 to R77), the four
invalidation macros (10_state.md R52), how a command is accepted (40_host_port.md R116) and how it completes, with or without
an error (60_exceptions.md R220, R230 to R232, R236), which oracle a command asks (44_housekeeping_commands.md R174), and
reset (70_reset_and_hazards.md R250). -/

namespace Sys2Proof.Machine

/-! ## Who may act in which phase -/

/-- A host write (R72): it takes effect in IDLE; in BUSY and in FAULT it is dropped and leaves no trace (R74, R77). -/
def hostWrite (s : State) (k : State → State) : Host.Outcome State Fault Refusal :=
  .next (if s.phase = .idle then k s else s)

/-- A step of the sequencer (R20): it acts when PHASE is BUSY; in IDLE and FAULT no command is in flight and nothing happens. -/
def atCompletion (s : State) (k : State → State) : Host.Outcome State Fault Refusal :=
  .next (if s.phase = .busy then k s else s)

/-! ## Reading a register -/

/-- The register at `rn` in the map of R54, zero-extended: R71's value in IDLE, 0 for a write-only or a reserved number. -/
def regValue (s : State) (rn : RegNum) : Half :=
  let n := rn.toNat
  if n = 0x000 then 0xB039
  else if n = 0x001 then ctrlWord s
  else if n = 0x003 then statusWord s
  else if n = 0x004 then s.err.setWidth 16
  else if n = 0x005 then s.errinfo
  else if n = 0x006 then s.lang.setWidth 16
  else if n = 0x007 then sepWord s
  else if n = 0x008 then s.elen.setWidth 16
  else if n = 0x009 then s.wcnt.setWidth 16
  else if n = 0x00A then s.plen.setWidth 16
  else if n = 0x00B then s.cslen.setWidth 16
  else if n = 0x00C then s.csum.setWidth 16
  else if n = 0x00D then s.ecs.setWidth 16
  else if n = 0x00E then s.unkpos.setWidth 16
  else if 0x020 ≤ n ∧ n < 0x040 then (s.ent.getD (n - 0x020) 0).setWidth 16
  else if 0x040 ≤ n ∧ n < 0x058 then (s.idx.getD (n - 0x040) 0).setWidth 16
  else if 0x080 ≤ n ∧ n < 0x0C0 then (s.seed.getD (n - 0x080) 0).setWidth 16
  else 0

/-- ID, CTRL, STATUS, LANG and SEP read true in every phase (R75, R77). -/
def alwaysReadable (rn : RegNum) : Bool := [0x000, 0x001, 0x003, 0x006, 0x007].contains rn.toNat

/-- `RegRead(rn)`: R71 in IDLE, R75 in BUSY, R77 in FAULT. -/
def regRead (s : State) (rn : RegNum) : Half :=
  match s.phase with
  | .idle => regValue s rn
  | .busy => if alwaysReadable rn then regValue s rn else 0
  | .fault => if alwaysReadable rn ∨ rn = 0x004 ∨ rn = 0x005 then regValue s rn else 0

/-! ## Counters (R26, R28) -/

/-- `min(c + 1, 255)`: the counters ELEN and WCNT stop at 255. -/
def satInc (c : Byte) : Byte := if c = 255 then 255 else c + 1

/-! ## Invalidation (R52) -/

/-- InvalidateS. -/
def invalidateS (s : State) : State := { s with svalid := false, seed := Vector.replicate 64 0 }

/-- InvalidateD. -/
def invalidateD (s : State) : State := { s with dvalid := false, csok := false, ecs := 0 }

/-- InvalidateI. -/
def invalidateI (s : State) : State := { s with ivalid := false }

/-- InvalidateE: ENT and ELEN stay. -/
def invalidateE (s : State) : State :=
  invalidateI (invalidateD (invalidateS { s with evalid := false, csum := 0, cslen := 0 }))

/-! ## Errors (R230 to R232, R236) -/

/-- The errors of R231 with the detail each carries (R232). -/
inductive CommandError where
  | invalidEntropyLength (elen : Byte)
  | unknownWord (pos : Byte) (lang : BitVec 4)
  | invalidSentenceLength (wcnt : Byte)
  | checksumMismatch (embedded recomputed : Byte)
  | internalInvariantViolation (n expected : Byte)
  | illegalCommand (w : CmdWord)
  | sequenceError (op : BitVec 4)
  | passphraseOverflow (plen : BitVec 9)
  deriving DecidableEq, Repr

/-- The code of an error in ERR (R231). -/
def errCode : CommandError → BitVec 4
  | .invalidEntropyLength _ => 1
  | .unknownWord _ _ => 2
  | .invalidSentenceLength _ => 3
  | .checksumMismatch _ _ => 4
  | .internalInvariantViolation _ _ => 5
  | .illegalCommand _ => 6
  | .sequenceError _ => 7
  | .passphraseOverflow _ => 8

/-- The layout of an error's detail in ERRINFO (R232). -/
def errLayout : CommandError → Half
  | .invalidEntropyLength elen => (0 : Byte) ++ elen
  | .unknownWord pos lang => (0 : BitVec 4) ++ lang ++ pos
  | .invalidSentenceLength wcnt => (0 : Byte) ++ wcnt
  | .checksumMismatch embedded recomputed => recomputed ++ embedded
  | .internalInvariantViolation n expected => expected ++ n
  | .illegalCommand w => w
  | .sequenceError op => (0 : BitVec 12) ++ op
  | .passphraseOverflow plen => (0 : BitVec 7) ++ plen

/-- Normal completion (R220): ERR and ERRINFO stay as acceptance left them. -/
def finish (s : State) : State := { s with phase := .idle, done := true }

/-- Completion with a recoverable error (R230, R235). -/
def failWith (e : CommandError) (s : State) : State :=
  { s with err := errCode e, errinfo := errLayout e, phase := .idle, done := true }

/-- The fatal error (R236): every register but PHASE, CTRL, LANG, ERR, ERRINFO and DONE takes its reset value; PASS keeps its
size; what is the host's stays. -/
def enterFault (e : CommandError) (s : State) : State :=
  { State.reset with
    phase := .fault, err := errCode e, errinfo := errLayout e, done := true,
    strict := s.strict, ie := s.ie, lang := s.lang,
    pass := List.replicate (passMax s) 0,
    host := s.host, rdata := s.rdata, wait := s.wait, fresh := s.fresh }

/-- `raise E(info)` (R230): InternalInvariantViolation is the one fatal error (R231, R236), every other is recoverable. The
state given already has the writes that stand before the `raise`. -/
def raise (e : CommandError) (s : State) : State :=
  match e with
  | .internalInvariantViolation _ _ => enterFault e s
  | _ => failWith e s

/-! ## The oracles (R174, R180, R184, R188) -/

/-- A request on one of the three oracle ports. -/
inductive OracleRequest where
  /-- A message on the SHA port (R180). -/
  | sha (m : List Byte)
  /-- Password, salt, iteration count and output length on the KDF port (R184). -/
  | kdf (p salt : List Byte) (c dkLen : Nat)
  /-- A pulse on the RNG port (R188). -/
  | rng
  deriving DecidableEq, Repr

/-- The requests an instruction issues when it completes in state `s`, in their order (R174): at most one SHA request, one
KDF request, or an RNG request and then a SHA request of its answer. -/
def oracleRequests (i : Instr) (s : State) : List OracleRequest :=
  match i with
  | .loade => if (tripleOfElen s.elen.toNat).isSome then [.sha (entropyOf s)] else []
  | .rande => [.rng, .sha (Config.rngDraw s.fresh).toList]
  | .decode =>
    if s.unkseen then []
    else match unpackHeld s with
      | none => []
      | some u => [.sha u.ent]
  | .seed => if s.evalid ∧ ¬ s.povf then [.kdf (entropyOf s) (saltOf s) 2048 64] else []
  | .nop | .encode | .verify | .clr _ | .wrctrl _ _ | .cmdwr _ | .ack _ | .wrlang _ | .epush _ | .ipush _ _ | .ppush _ | .rd _ => []

/-! ## Acceptance (R116) -/

/-- What acceptance of a legal command invalidates (R116). -/
def acceptInvalidate (i : Instr) (s : State) : State :=
  match i with
  | .loade | .rande | .decode => invalidateE s
  | .encode => invalidateD (invalidateI s)
  | .seed => invalidateS s
  | .nop | .verify | .clr _ | .wrctrl _ _ | .cmdwr _ | .ack _ | .wrlang _ | .epush _ | .ipush _ _ | .ppush _ | .rd _ => s

/-- The cycles a command accepted now will wait in BUSY before its completion step (R9, R24): a free number; for a command that
asks an oracle, possibly for ever (R262). Whether T_BUSY depends on the data is open (R267, U17): DESIGN CHOICE, it depends on the
counter `k` and on whether an oracle is asked, so two runs whose counters agree wait alike (notes/assumptions/23.md). -/
def waitFor (asks : Bool) (k : Nat) : Option Nat := if asks then Config.oracleWait k else some (Config.tBusy k)

/-- Acceptance of the command word `w` (R116). An illegal word invalidates nothing and asks no oracle (R173). -/
def accept (w : CmdWord) (s : State) : State :=
  let s1 := { s with opc := w, phase := .busy, err := 0, errinfo := 0, done := false, fresh := s.fresh + 1 }
  match decodeCmd w with
  | .ok i =>
    { acceptInvalidate i s1 with wait := waitFor (oracleRequests i (acceptInvalidate i s1) != []) s.fresh }
  | .error _ => { s1 with wait := waitFor false s.fresh }

/-! ## Reset (R250) -/

/-- The state after an edge with `rst` = 1: every piece of the block's state at its reset value (R57), PASS of the same size;
the host's own data stay. The counter of free values moves on, so that a draw abandoned by the reset is never used again (R251). -/
def resetBlock (s : State) : State :=
  { State.reset with
    pass := List.replicate (passMax s) 0,
    host := s.host, rdata := s.rdata, fresh := s.fresh + 1 }

end Sys2Proof.Machine
end

