-- ==== Sys2Proof/Machine/EntropyCommands.lean ====
section
/-! DEFINITION. The completions of LOADE and RANDE (41_entropy_commands.md R131, R133). Acceptance has done InvalidateE. -/

namespace Sys2Proof.Machine

/-- The entropy group is valid with checksum `(cs, c)`: the last line of R131, R133 and R145. -/
def setChecksum (k : Nat × Nat) (s : State) : State :=
  { s with cslen := BitVec.ofNat 4 k.1, csum := BitVec.ofNat 8 k.2, evalid := true }

/-- LOADE at completion, R131; `sha` is the function behind the SHA port. -/
def loade (sha : List Byte → Digest) (s : State) : State :=
  if (tripleOfElen s.elen.toNat).isSome then finish (setChecksum (checksum sha (entropyOf s)) s)
  else raise (.invalidEntropyLength s.elen) s

/-- LOADE, R131. -/
def execLoade (s : State) : Host.Outcome State Fault Refusal := atCompletion s (loade Config.sha256)

/-- RANDE at completion, R133; `r` is the draw. -/
def rande (sha : List Byte → Digest) (r : Vector Byte 32) (s : State) : State :=
  finish (setChecksum (checksum sha r.toList) { s with ent := r, elen := 32 })

/-- RANDE, R133: the draw is a free value, and the counter of free values moves on (R189). -/
def execRande (s : State) : Host.Outcome State Fault Refusal :=
  atCompletion s fun s => rande Config.sha256 (Config.rngDraw s.fresh) { s with fresh := s.fresh + 1 }

end Sys2Proof.Machine
end

