-- ==== Sys2Proof/Machine/CodecCommands.lean ====
section
/-! DEFINITION. The completions of ENCODE, DECODE and VERIFY (42_codec_commands.md R142 to R149). -/

namespace Sys2Proof.Machine

/-- The bit sequence ENCODE packs: the held entropy bits, then `bin_CSLEN(CSUM)` (R142). -/
def heldBits (s : State) : List Bool := packed (entropyOf s) s.cslen.toNat s.csum.toNat

/-- The word count ENCODE expects; outside TRIPLES the table has no value and the number is free (R8, U11). -/
def expectedMs (s : State) : Byte :=
  match tripleOfElen s.elen.toNat with
  | some t => BitVec.ofNat 8 t.ms
  | none => Config.msOutsideTable s.elen

/-- The defensive count check of R143: the number of whole groups is the table's word count and no bit is left over. A length
outside TRIPLES has no word count to meet and fails it (U11). -/
def countCheck (s : State) : Bool :=
  match tripleOfElen s.elen.toNat with
  | some t => (heldBits s).length / 11 == t.ms && 11 * ((heldBits s).length / 11) == (heldBits s).length
  | none => false

/-- ENCODE at completion, R142. -/
def encodeHeld (s : State) : State :=
  if !s.evalid then raise (.sequenceError 3) s
  else if !countCheck s then
    raise (.internalInvariantViolation (BitVec.ofNat 8 ((heldBits s).length / 11)) (expectedMs s)) s
  else
    finish
      { s with
        idx := fill 24 (groups (heldBits s)), wcnt := BitVec.ofNat 8 ((heldBits s).length / 11),
        unkseen := false, unkpos := 0, ivalid := true }

/-- ENCODE, R142. -/
def execEncode (s : State) : Host.Outcome State Fault Refusal := atCompletion s encodeHeld

/-- The strip of R145 once the input checks have passed: `u` is what Unpack gives, `k` the checksum of its entropy. In strict
mode a mismatch is raised after ECS, CSOK and DVALID are written and before the entropy group is (R147). -/
def strip (u : Unpacked) (k : Nat × Nat) (s : State) : State :=
  let s1 := { s with ecs := BitVec.ofNat 8 u.x, csok := k.2 == u.x, dvalid := true }
  if s.strict ∧ k.2 ≠ u.x then raise (.checksumMismatch (BitVec.ofNat 8 u.x) (BitVec.ofNat 8 k.2)) s1
  else finish (setChecksum k { s1 with ent := fill 32 u.ent, elen := BitVec.ofNat 8 u.ent.length })

/-- DECODE at completion, R145, its checks in the order of R146. -/
def decodeHeld (sha : List Byte → Digest) (s : State) : State :=
  if s.unkseen then raise (.unknownWord s.unkpos s.lang) s
  else
    match unpackHeld s with
    | some u => strip u (checksum sha u.ent) s
    | none => raise (.invalidSentenceLength s.wcnt) s

/-- DECODE, R145. -/
def execDecode (s : State) : Host.Outcome State Fault Refusal := atCompletion s (decodeHeld Config.sha256)

/-- VERIFY at completion, R149. -/
def verifyHeld (s : State) : State :=
  if !s.dvalid then raise (.sequenceError 5) s
  else if !s.csok then raise (.checksumMismatch s.ecs s.csum) s
  else finish s

/-- VERIFY, R149. -/
def execVerify (s : State) : Host.Outcome State Fault Refusal := atCompletion s verifyHeld

end Sys2Proof.Machine
end

