-- ==== Sys2Proof/Machine/HostPort.lean ====
section
/-! DEFINITION. The eight host transactions (40_host_port.md R110 to R118). A write takes effect in IDLE only (hostWrite); no
host transaction raises an error (R233). -/

namespace Sys2Proof.Machine

/-- WRCTRL, R110. -/
def execWrctrl (ie strict : Bool) (s : State) : Host.Outcome State Fault Refusal :=
  hostWrite s fun s => { s with strict := strict, ie := ie }

/-- The command write, R116. -/
def execCmdwr (w : CmdWord) (s : State) : Host.Outcome State Fault Refusal := hostWrite s (accept w)

/-- ACK, R117: ERR and ERRINFO stay. -/
def execAck (a : Bool) (s : State) : Host.Outcome State Fault Refusal :=
  hostWrite s fun s => if a then { s with done := false } else s

/-- WRLANG, R111: codes 10 to 15 leave LANG as it is. -/
def execWrlang (code : BitVec 4) (s : State) : Host.Outcome State Fault Refusal :=
  hostWrite s fun s => if code.toNat ≤ 9 then { s with lang := code } else s

/-- The effect of EPUSH, R112. -/
def pushEntropy (b : Byte) (s : State) : State :=
  invalidateE
    { s with
      ent := if s.elen.toNat < 32 then s.ent.setIfInBounds s.elen.toNat b else s.ent
      elen := satInc s.elen }

/-- EPUSH, R112. -/
def execEpush (b : Byte) (s : State) : Host.Outcome State Fault Refusal := hostWrite s (pushEntropy b)

/-- The effect of IPUSH, R113; UNKPOS records WCNT before the increment, for the first marked write only. -/
def pushIndex (unk : Bool) (n : Idx) (s : State) : State :=
  invalidateD (invalidateI
    { s with
      idx := if s.wcnt.toNat < 24 then s.idx.setIfInBounds s.wcnt.toNat n else s.idx
      unkseen := s.unkseen || unk
      unkpos := if unk && !s.unkseen then s.wcnt else s.unkpos
      wcnt := satInc s.wcnt })

/-- IPUSH, R113. -/
def execIpush (unk : Bool) (n : Idx) (s : State) : Host.Outcome State Fault Refusal := hostWrite s (pushIndex unk n)

/-- The effect of PPUSH, R114: a byte that does not fit sets POVF and is not stored. -/
def pushPass (b : Byte) (s : State) : State :=
  invalidateS
    (if s.plen.toNat < passMax s then { s with pass := s.pass.set s.plen.toNat b, plen := s.plen + 1 }
     else { s with povf := true })

/-- PPUSH, R114. -/
def execPpush (b : Byte) (s : State) : Host.Outcome State Fault Refusal := hostWrite s (pushPass b)

/-- RD, R118: the value goes to `h_rdata`; no register changes, in any phase (R71, R75, R77). -/
def execRd (rn : RegNum) (s : State) : Host.Outcome State Fault Refusal := .next { s with rdata := regRead s rn }

end Sys2Proof.Machine
end

