-- ==== Sys2Proof/Machine/Housekeeping.lean ====
section
/-! DEFINITION. The completions of NOP and CLR, and of an illegal command word (44_housekeeping_commands.md R170 to R173). -/

namespace Sys2Proof.Machine

/-- NOP, R170. -/
def execNop (s : State) : Host.Outcome State Fault Refusal := atCompletion s finish

/-- Group E of R171. -/
def clearE (s : State) : State := invalidateE { s with ent := Vector.replicate 32 0, elen := 0 }

/-- Group I of R171. -/
def clearI (s : State) : State :=
  invalidateD (invalidateI { s with idx := Vector.replicate 24 0, wcnt := 0, unkseen := false, unkpos := 0 })

/-- Group P of R171. -/
def clearP (s : State) : State :=
  invalidateS { s with pass := List.replicate (passMax s) 0, plen := 0, povf := false }

/-- CLR at completion, R171: M[0] E, M[1] I, M[2] P, M[3] S. -/
def clearGroups (m : BitVec 4) (s : State) : State :=
  let s1 := if m.getLsbD 0 then clearE s else s
  let s2 := if m.getLsbD 1 then clearI s1 else s1
  let s3 := if m.getLsbD 2 then clearP s2 else s2
  if m.getLsbD 3 then invalidateS s3 else s3

/-- CLR, R171. -/
def execClr (m : BitVec 4) (s : State) : Host.Outcome State Fault Refusal :=
  atCompletion s fun s => finish (clearGroups m s)

/-- The completion of an illegal command word, R173. -/
def completeIllegal (w : CmdWord) (s : State) : Host.Outcome State Fault Refusal :=
  atCompletion s (raise (.illegalCommand w))

end Sys2Proof.Machine
end

