-- ==== Sys2Proof/Machine/SeedCommand.lean ====
section
/-! DEFINITION. The completion of SEED (43_seed_command.md R160 to R165). Acceptance has done InvalidateS. -/

namespace Sys2Proof.Machine

/-- SEED at completion, R160; `kdf` is the function behind the KDF port, asked with 2048 iterations and 64 bytes (R186). -/
def deriveSeed (kdf : List Byte → List Byte → Nat → (n : Nat) → Vector Byte n) (s : State) : State :=
  if !s.evalid then raise (.sequenceError 6) s
  else if s.povf then raise (.passphraseOverflow s.plen) s
  else finish { s with seed := kdf (entropyOf s) (saltOf s) 2048 64, svalid := true }

/-- SEED, R160. -/
def execSeed (s : State) : Host.Outcome State Fault Refusal := atCompletion s (deriveSeed Config.pbkdf2)

end Sys2Proof.Machine
end

