-- ==== Sys2Proof/Machine/Dispatch.lean ====
section
/-! DEFINITION. One arm per instruction, each a direct call of its meaning. -/

namespace Sys2Proof.Machine

def exec (i : Instr) (s : State) : Host.Outcome State Fault Refusal :=
  match i with
  -- commands, at their completion
  | .nop => Sys2Proof.Machine.execNop s
  | .loade => Sys2Proof.Machine.execLoade s
  | .rande => Sys2Proof.Machine.execRande s
  | .encode => Sys2Proof.Machine.execEncode s
  | .decode => Sys2Proof.Machine.execDecode s
  | .verify => Sys2Proof.Machine.execVerify s
  | .seed => Sys2Proof.Machine.execSeed s
  | .clr m => Sys2Proof.Machine.execClr m s
  -- host transactions
  | .wrctrl ie strict => Sys2Proof.Machine.execWrctrl ie strict s
  | .cmdwr w => Sys2Proof.Machine.execCmdwr w s
  | .ack a => Sys2Proof.Machine.execAck a s
  | .wrlang code => Sys2Proof.Machine.execWrlang code s
  | .epush b => Sys2Proof.Machine.execEpush b s
  | .ipush unk n => Sys2Proof.Machine.execIpush unk n s
  | .ppush b => Sys2Proof.Machine.execPpush b s
  | .rd rn => Sys2Proof.Machine.execRd rn s

end Sys2Proof.Machine
end

