-- ==== Sys2Proof/Machine/Clock.lean ====
section
/-! DEFINITION. One clock cycle (20_memory.md R70, 10_state.md R20, R24): the host's access, if it presents one, and the
sequencer's step, if one falls due; or an edge with `rst` = 1 (70_reset_and_hazards.md R250). -/

namespace Sys2Proof.Machine

/-- `f` after a next state; a stop stays a stop. -/
def andThen (o : Host.Outcome State Fault Refusal) (f : State → Host.Outcome State Fault Refusal) :
    Host.Outcome State Fault Refusal :=
  match o with
  | .next s => f s
  | .fault r => .fault r
  | .refused r => .refused r

/-- One access on the host port: the operation it names; a write that matches no row does nothing (R72, R76, R100). -/
def hostAccess (b : BusWord) (s : State) : Host.Outcome State Fault Refusal :=
  match decode (.bus b) with
  | .ok i => exec i s
  | .error _ => .next s

/-- One round of the pseudo-operation `wait` (R99): read STATUS, and stay at `wait` while bit 1 of the value is 1. -/
def pollStatus (rest : List HostCycle) (s : State) : Host.Outcome State Fault Refusal :=
  andThen (exec (.rd 0x003) s) fun s' => .next (if s'.rdata.getLsbD 1 then s' else { s' with host := rest })

/-- The host's part of a cycle without reset. -/
def hostPart (s : State) : Host.Outcome State Fault Refusal :=
  match s.host with
  | [] => .next s
  | .quiet :: rest => .next { s with host := rest }
  | .access b :: rest => hostAccess b { s with host := rest }
  | .wait :: rest => pollStatus rest s
  | .reset _ :: rest => .next { s with host := rest }

/-- The completion step of the latched command (R24): the command OPC names, or the illegal word (R97, R173). -/
def completeLatched (s : State) : Host.Outcome State Fault Refusal :=
  match decode (.cmd s.opc) with
  | .ok i => exec i s
  | .error _ => completeIllegal s.opc s

/-- The sequencer's part of a cycle in BUSY: it waits, for ever if an oracle never answers (R262), or completes the command. -/
def sequencerPart (s : State) : Host.Outcome State Fault Refusal :=
  match s.wait with
  | none => .next s
  | some 0 => completeLatched s
  | some (k + 1) => .next { s with wait := some k }

/-- An edge with `rst` = 1 (R250): a write presented in the cycle has no effect, a read returns any value. -/
def resetEdge (b : Option BusWord) (s : State) : State :=
  match b with
  | some w => if busWe w then resetBlock s else { resetBlock s with rdata := Config.resetRead s.fresh }
  | none => resetBlock s

/-- One clock cycle. The sequencer acts by the phase before the edge: a command accepted in this cycle completes in a later one
(R24). In BUSY a host write is dropped and a read changes no register, so the host's part and the sequencer's do not collide;
the read sees the state before the edge (R70). -/
def clockCycle (s : State) : Host.Outcome State Fault Refusal :=
  match s.host with
  | .reset b :: rest => .next (resetEdge b { s with host := rest })
  | _ => andThen (hostPart s) (if s.phase = .busy then sequencerPart else .next)

/-- Place the instruction with word `c` where the next cycle takes it: a transaction becomes the host's next access; a command
word is latched in OPC with its completion due in the next cycle, in which the host is quiet. -/
def placeWord (c : CodeWord) (s : State) : State :=
  match c with
  | .bus b => { s with host := .access b :: s.host }
  | .cmd w => { s with host := .quiet :: s.host, phase := .busy, opc := w, wait := some 0 }

end Sys2Proof.Machine
end

