-- ==== Sys2Proof/Machine/Step.lean ====
section
/-! DEFINITION. The step is one clock cycle (20_memory.md R70). -/

namespace Sys2Proof.Machine

/-- One clock cycle. -/
def step : State → Host.Outcome State Fault Refusal := clockCycle

/-- The state with a table word placed where the next step takes its instruction (notes/assumptions/5.md). -/
def State.withFetchWord (s : State) (nbits w : Nat) : State :=
  match codeWordOfTable nbits w with
  | none => s
  | some c => placeWord c s

end Sys2Proof.Machine
end

