-- ==== Sys2Proof/Machine/HostProgram.lean ====
section
/-! DEFINITION. The notation for host programs (30_encoding.md R98, R99) as functions to the host's cycles: a program is a list of
`HostCycle` placed in State's field `host`. -/

namespace Sys2Proof.Machine

/-- `wr NAME, v` with NAME's register number. -/
def hostWr (rn : RegNum) (v : Half) : HostCycle := .access (busWord true rn v)

/-- `rd NAME`. -/
def hostRd (rn : RegNum) : HostCycle := .access (busWord false rn 0)

/-- `cmd OP` with OP's opcode. -/
def hostCmd (op : BitVec 4) : HostCycle := hostWr 0x002 (cmdWord 0 op)

/-- `cmd CLR, <letters>`: M has bit 0 for E, 1 for I, 2 for P, 3 for S (R94). -/
def hostCmdClr (e i p s : Bool) : HostCycle :=
  hostWr 0x002 (cmdWord (BitVec.ofBool s ++ BitVec.ofBool p ++ BitVec.ofBool i ++ BitVec.ofBool e) 7)

/-- `pushe b`. -/
def hostPushe (b : Byte) : HostCycle := hostWr 0x010 ((0 : Byte) ++ b)

/-- `pushi n`. -/
def hostPushi (n : Idx) : HostCycle := hostWr 0x011 ((0 : BitVec 5) ++ n)

/-- `pushu`. -/
def hostPushu : HostCycle := hostWr 0x011 0x8000

/-- `pushp b`. -/
def hostPushp (b : Byte) : HostCycle := hostWr 0x012 ((0 : Byte) ++ b)

/-- `ack`. -/
def hostAck : HostCycle := hostWr 0x003 0x0001

/-- `run OP` (R99). -/
def hostRun (op : BitVec 4) : List HostCycle := [hostCmd op, .wait]

/-- `run CLR, <letters>` (R99). -/
def hostRunClr (e i p s : Bool) : List HostCycle := [hostCmdClr e i p s, .wait]

/-- `entropy b0 b1 ... bk` (R99). -/
def hostEntropy (bytes : List Byte) : List HostCycle := bytes.map hostPushe

/-- `indices n0 n1 ... nk` (R99). -/
def hostIndices (ns : List Idx) : List HostCycle := ns.map hostPushi

/-- The UTF-8 bytes of a text, in order: of its code points as given (notes/assumptions/19.md, 21.md). -/
def utf8Bytes (text : List Char) : List Byte := text.flatMap fun c => (String.utf8EncodeChar c).map fun b => b.toBitVec

/-- `passphrase "text"` (R99): `pushp` of each UTF-8 byte of the text. -/
def hostPassphrase (text : List Char) : List HostCycle := (utf8Bytes text).map hostPushp

/-- `expect NAME == v` (R99), its statement: in state `s`, the one its read sees, the rules give `v`. -/
def Expect (s : State) (rn : RegNum) (v : Half) : Prop := regRead s rn = v

/-- A line of a host program: transactions, of which every notation above gives some, or an `expect`. -/
inductive ProgramLine where
  /-- The cycles of a `wr`, `rd`, `cmd`, a push, `ack` or a pseudo-operation other than `expect`. -/
  | cycles (cs : List HostCycle)
  /-- `expect NAME == v`. -/
  | expect (rn : RegNum) (v : Half)
  deriving DecidableEq, Repr

/-- What a line presents; an `expect` expands to `rd NAME` (R99). -/
def ProgramLine.expand : ProgramLine → List HostCycle
  | .cycles cs => cs
  | .expect rn _ => [hostRd rn]

/-- The cycles of a program. -/
def programCycles (p : List ProgramLine) : List HostCycle := p.flatMap ProgramLine.expand

/-- The statements of a program's `expect` lines, for the run from `s`: whenever the run reaches the read of such a line, and however
long its `wait`s take, the step that performs the read returns the line's value. -/
def ExpectsHold (p : List ProgramLine) (s : State) : Prop :=
  ∀ (before rest : List ProgramLine) (rn : RegNum) (v : Half), p = before ++ .expect rn v :: rest →
    ∀ (n : Nat) (t u : State), Sys2Proof.core.run n { s with host := programCycles p } = .next t →
      t.host = hostRd rn :: programCycles rest → step t = .next u → u.rdata = v

end Sys2Proof.Machine
end

