-- ==== Sys2Proof/Machine/Driver.lean ====
section
/-! DEFINITION. The host driver's contract (46_driver_contract.md R200 to R212): what RS7's public calls do around the block.
Nothing here is behaviour of the block. The wordlists and the splitter are parameters (R9's manner; U12 to U14): every function
below takes them as arguments. -/

namespace Sys2Proof.Machine

/-- The ten supported languages, a closed set (R202). -/
inductive Language where
  | english
  | french
  | spanish
  | italian
  | czech
  | portuguese
  | korean
  | japanese
  | chineseSimplified
  | chineseTraditional
  deriving DecidableEq, Repr

/-- The LANG code of a language: 0 to 9 in this order (R43, R202). -/
def languageCode : Language → BitVec 4
  | .english => 0
  | .french => 1
  | .spanish => 2
  | .italian => 3
  | .czech => 4
  | .portuguese => 5
  | .korean => 6
  | .japanese => 7
  | .chineseSimplified => 8
  | .chineseTraditional => 9

/-- The ten languages in the order of their codes (R202). -/
def languages : List Language :=
  [.english, .french, .spanish, .italian, .czech, .portuguese, .korean, .japanese, .chineseSimplified, .chineseTraditional]

/-- The language a LANG code names; none for the reserved codes 10 to 15 (R43, R202). -/
def languageOfCode (code : BitVec 4) : Option Language := languages[code.toNat]?

/-- The character that joins a language's words: U+3000 for Japanese, U+0020 for the others (R202). -/
def separatorOf : Language → Char
  | .japanese => Char.ofNat 0x3000
  | .english | .french | .spanish | .italian | .czech | .portuguese | .korean | .chineseSimplified | .chineseTraditional =>
    Char.ofNat 0x0020

/-- A word as its code points. -/
abbrev WordText := List Char

/-- The Wordlist Provider's index to word table, `Word(g, i)` (R200). -/
abbrev Wordlists := Language → Idx → WordText

/-- What the driver may rely on: the 2048 words of one language are unique (R201), and English 0 is "abandon" (R212). -/
structure WordlistsOk (word : Wordlists) : Prop where
  unique : ∀ g i j, word g i = word g j → i = j
  abandon : word .english 0 = ['a', 'b', 'a', 'n', 'd', 'o', 'n']

/-- `Index(g, w)`: the index of a word, or absent (R200, R201). Words are compared by their code points. -/
def wordIndex (word : Wordlists) (g : Language) (w : WordText) : Option Idx :=
  ((List.range 2048).map (BitVec.ofNat 11)).find? fun i => decide (word g i = w)

/-- Joining words with a separator, none before the first or after the last (R206). -/
def joinWords (sep : Char) : List WordText → List Char
  | [] => []
  | [w] => w
  | w :: v :: rest => w ++ sep :: joinWords sep (v :: rest)

/-- What R208 requires of the driver's splitter, with the driver's own notion of white space as the parameter `isSpace` (U14):
U+0020 and U+3000 are white space, words that one white-space character each stands between come apart, whichever characters these
are, and the empty text has no words. Which other characters are white space, and leading, trailing and repeated ones, are open. -/
structure SplitterOk (isSpace : Char → Bool) (split : List Char → List WordText) : Prop where
  space : isSpace (Char.ofNat 0x0020) = true
  ideographicSpace : isSpace (Char.ofNat 0x3000) = true
  empty : split [] = []
  splits : ∀ (w : WordText) (rest : List (Char × WordText)),
    (∀ v ∈ w :: rest.map Prod.snd, v ≠ [] ∧ ∀ c ∈ v, isSpace c = false) → (∀ p ∈ rest, isSpace p.1 = true) →
    split (w ++ rest.flatMap fun p => p.1 :: p.2) = w :: rest.map Prod.snd

/-! ## RS7's public surface as host programs -/

/-- Construct-from-entropy (R204); an input of more than 255 bytes may be cut. The last access reads ERR. -/
def constructFromEntropy (bytes : List Byte) : List HostCycle :=
  hostRunClr true false false false ++ hostEntropy (bytes.take 255) ++ hostRun 1 ++ [hostRd 0x004]

/-- Construct-random (R205). -/
def constructRandom : List HostCycle := hostRun 2

/-- The encoding half of toSentence (R206). The last access reads ERR. -/
def encodeSentence (g : Language) : List HostCycle :=
  hostWr 0x006 ((0 : BitVec 12) ++ languageCode g) :: hostRun 3 ++ [hostRd 0x004]

/-- The push for one word of a sentence: its index, or the unknown-word marker (R207). -/
def pushWord (word : Wordlists) (g : Language) (w : WordText) : HostCycle :=
  match wordIndex word g w with
  | some i => hostPushi i
  | none => hostPushu

/-- Construct-from-sentence (R207); a sentence of more than 255 words may be cut. The last access reads ERR. -/
def constructFromSentence (word : Wordlists) (split : List Char → List WordText) (g : Language) (text : List Char) :
    List HostCycle :=
  hostWr 0x006 ((0 : BitVec 12) ++ languageCode g) :: hostRunClr false true false false
    ++ ((split text).take 255).map (pushWord word g) ++ hostRun 4 ++ [hostRd 0x004]

/-- toSeed (R209). Whether the passphrase is Unicode-normalised first is open (N9): DESIGN CHOICE, the model's driver pushes the UTF-8
bytes of the text as given (notes/assumptions/21.md). -/
def toSeed (passphrase : List Char) : List HostCycle :=
  hostRunClr false false true false ++ hostPassphrase passphrase ++ hostRun 6 ++ [hostRd 0x004]

/-! ## What the driver reads back -/

/-- The first `n` entries of a read window starting at register number `base`. -/
def readWindow (s : State) (base n : Nat) : List Half := (List.range n).map fun i => regRead s (BitVec.ofNat 9 (base + i))

/-- The entropy accessor (R210): ELEN and ENT[0..ELEN-1]. What it gives for an ELEN over 32, after a failed construction, is open (N21):
DESIGN CHOICE, the 32 entries there are (notes/assumptions/20.md). -/
def readEntropy (s : State) : List Byte := (readWindow s 0x020 (min (regRead s 0x008).toNat 32)).map fun v => v.setWidth 8

/-- The checksum accessor (R210): CSLEN and CSUM. -/
def readChecksum (s : State) : Half × Half := (regRead s 0x00B, regRead s 0x00C)

/-- The word-index accessor (R210), after ENCODE: IDX[0..WCNT-1]. For a WCNT over 24, after a failed construction, it is open (N21):
DESIGN CHOICE, the 24 entries there are (notes/assumptions/20.md). -/
def readIndices (s : State) : List Idx := (readWindow s 0x040 (min (regRead s 0x009).toNat 24)).map fun v => v.setWidth 11

/-- The seed (R209): SEED[0..63]. -/
def readSeed (s : State) : List Byte := (readWindow s 0x080 64).map fun v => v.setWidth 8

/-- The sentence (R206): each index through the wordlist, joined with the code point read from SEP. -/
def readSentence (word : Wordlists) (g : Language) (s : State) : List Char :=
  joinWords (Char.ofNat (regRead s 0x007).toNat) ((readIndices s).map (word g))

/-- The last strip's result (R34, R48): ECS and CSOK, which is STATUS bit 7. -/
def readStrip (s : State) : Half × Bool := (regRead s 0x00D, (regRead s 0x003).getLsbD 7)

/-- The word at the position UnknownWord reports, ERRINFO[7:0], of the split sentence (R207). -/
def offendingWord (words : List WordText) (s : State) : Option WordText :=
  words[((regRead s 0x005).extractLsb' 0 8).toNat]?

/-- The language UnknownWord reports, ERRINFO[11:8] (R207). -/
def offendingLanguage (s : State) : Option Language := languageOfCode ((regRead s 0x005).extractLsb' 8 4)

/-- How one of RS7's calls ends for its caller (R204 to R207, R209). -/
inductive CallResult where
  /-- ERR 0: the call succeeded. -/
  | success
  /-- ERR 1. -/
  | invalidEntropyLength
  /-- ERR 2, naming the offending word and language. -/
  | unknownWord (word : Option WordText) (language : Option Language)
  /-- ERR 3. -/
  | invalidSentenceLength
  /-- ERR 4, in strict mode only. -/
  | checksumMismatch
  /-- ERR 5, InternalInvariantViolation: the driver aborts and does not retry. -/
  | abort
  /-- ERR 6 to 8, the errors RS7 does not have (R231), and the reserved codes. -/
  | hardwareError (code : Half)
  deriving DecidableEq, Repr

/-- The result of a call from what the driver reads in ERR and ERRINFO; `words` is the split sentence, if the call has one. -/
def callResult (words : List WordText) (s : State) : CallResult :=
  let code := regRead s 0x004
  if code = 0 then .success
  else if code = 1 then .invalidEntropyLength
  else if code = 2 then .unknownWord (offendingWord words s) (offendingLanguage s)
  else if code = 3 then .invalidSentenceLength
  else if code = 4 then .checksumMismatch
  else if code = 5 then .abort
  else .hardwareError code

end Sys2Proof.Machine
end

