-- ==== Sys2Proof/Machine/HostDuties.lean ====
section
/-! DEFINITION. What the host may do and must do (46_driver_contract.md R211; the hazards of 70_reset_and_hazards.md R258 to R260, R264), row
by row. Nothing here is behaviour of the block: a host that breaks a duty still runs, with the effect the spec gives. "Any time" of
R211 needs no definition: a HostCycle may be any read, and may assert `rst`, in every phase. -/

namespace Sys2Proof.Machine

/-! ## What a host does and sees -/

/-- One cycle as the host sees it: what it presented, and the value on `h_rdata` (which means something in a read's cycle only). -/
structure Seen where
  cycle : HostCycle
  value : Half
  deriving DecidableEq, Repr

/-- What the host presents in the coming cycle. -/
def presented (s : State) : HostCycle := s.host.headD .quiet

/-- The first `n` cycles of the run from `s`, as the host sees them. -/
def observed : Nat → State → List Seen
  | 0, _ => []
  | n + 1, s =>
    match step s with
    | .next t => ⟨presented s, t.rdata⟩ :: observed n t
    | .fault _ | .refused _ => []

/-- A write; one presented with `rst` = 1 is none, it has no effect (R250). -/
def isWrite (c : HostCycle) : Bool :=
  match c with
  | .access b => busWe b
  | .quiet | .wait | .reset _ => false

/-- A write to register number `rn`. -/
def writesTo (rn : RegNum) (c : HostCycle) : Bool :=
  match c with
  | .access b => busWe b && busRn b == rn
  | .quiet | .wait | .reset _ => false

/-- A read of register number `rn`; a cycle of `wait` reads STATUS (R99). -/
def readsFrom (rn : RegNum) (c : HostCycle) : Bool :=
  match c with
  | .access b => !busWe b && busRn b == rn
  | .wait => rn == 0x003
  | .quiet | .reset _ => false

/-- A read of a register other than ID, CTRL, STATUS, LANG and SEP (R258). -/
def readsData (c : HostCycle) : Bool :=
  match c with
  | .access b => !busWe b && !alwaysReadable (busRn b)
  | .quiet | .wait | .reset _ => false

/-- `rst` = 1. -/
def isReset (c : HostCycle) : Bool :=
  match c with
  | .reset _ => true
  | .quiet | .access _ | .wait => false

/-- A read of STATUS that shows BUSY = 0. -/
def seesIdle (o : Seen) : Bool := readsFrom 0x003 o.cycle && !o.value.getLsbD 1

/-- A read that shows the fatal error: FATAL in STATUS, or code 5 in ERR. -/
def seesFatal (o : Seen) : Bool :=
  (readsFrom 0x003 o.cycle && o.value.getLsbD 3) || (readsFrom 0x004 o.cycle && o.value == 5)

/-! ## Duties on what the host does and sees -/

/-- Whether the host is held back after a cycle: `starts` begins it, `ends` ends it. -/
def heldAfter (starts ends : Seen → Bool) (held : Bool) (o : Seen) : Bool := (held || starts o) && !ends o

/-- While it is held back the host presents no cycle that is `barred`; `held` says whether it is at the start. -/
def holdsBack (starts ends : Seen → Bool) (barred : HostCycle → Bool) : Bool → List Seen → Bool
  | _, [] => true
  | held, o :: rest =>
    !(held && barred o.cycle) && holdsBack starts ends barred (heldAfter starts ends held o) rest

/-- "Before a write or command: observe STATUS.BUSY = 0 since its last command" (R211); a reset abandons the command. Reads of any register
may stand between, and a last command needs no wait. -/
def writesAfterIdle (held : Bool) (os : List Seen) : Bool :=
  holdsBack (fun o => writesTo 0x002 o.cycle) (fun o => seesIdle o || isReset o.cycle) isWrite held os

/-- The same before a read that BUSY would hide (R258). -/
def readsAfterIdle (held : Bool) (os : List Seen) : Bool :=
  holdsBack (fun o => writesTo 0x002 o.cycle) (fun o => seesIdle o || isReset o.cycle) readsData held os

/-- "After FATAL: reset the block" (R211): once it has seen the fatal error the host writes nothing before a reset. -/
def resetsAfterFatal (held : Bool) (os : List Seen) : Bool :=
  holdsBack seesFatal (fun o => isReset o.cycle) isWrite held os

/-! ## Duties on a host program -/

/-- A program that waits: after a command no write stands before a `wait` or a reset. `held` says whether a command may be in flight at
its start. A program that does not branch keeps `writesAfterIdle` by this (R99, R258). -/
def waitsForCommands : Bool → List HostCycle → Bool
  | _, [] => true
  | held, c :: rest => !(held && isWrite c) && waitsForCommands ((held || writesTo 0x002 c) && !(c == .wait) && !isReset c) rest

/-- A command write that is a CLR with mask bit `k`. -/
def clearsGroup (k : Nat) (c : HostCycle) : Bool :=
  match c with
  | .access b =>
    busWe b && busRn b == 0x002 &&
      match decodeCmd (busData b) with
      | .ok (.clr m) => m.getLsbD k
      | _ => false
  | .quiet | .wait | .reset _ => false

/-- "New entropy, sentence or passphrase: clear the group first" (R211, R260): in a program that inputs something new, no push to `port`
stands before a CLR with the group's mask bit or a reset, both of which empty the group. Pushes go in the order of the list; no other master is in the
model (R81). -/
def clearsFirst (port : RegNum) (k : Nat) : List HostCycle → Bool
  | [] => true
  | c :: rest => clearsGroup k c || isReset c || (!writesTo port c && clearsFirst port k rest)

/-- "After FATAL": the program that resets the block, RS7's abort (R211, R206). -/
def recoverFromFatal : List HostCycle := [.reset none]

/-- "Secrets": the program that clears every group, `run CLR, EIPS` (R211, R264). -/
def clearSecrets : List HostCycle := hostRunClr true true true true

/-- A program that holds no secret longer than it needs (R211, R264): no push and no other command after its last `cmd CLR, EIPS`, or a
reset in that place. `clean` says whether the block is clean at its start. -/
def leavesNoSecrets : Bool → List HostCycle → Bool
  | clean, [] => clean
  | clean, c :: rest =>
    leavesNoSecrets
      (isReset c || c == hostCmdClr true true true true
        || (clean && !writesTo 0x002 c && !writesTo 0x010 c && !writesTo 0x011 c && !writesTo 0x012 c)) rest

/-! ## What the host may trust -/

/-- "After a command: read ERR before trusting any result; check the validity flag of what it reads" (R211, R259): ERR as the host reads it, and
the value only where STATUS shows its flag, bit `flag`. -/
def checkedRead {α : Type} (flag : Nat) (read : State → α) (s : State) : Half × Option α :=
  (regRead s 0x004, if (regRead s 0x003).getLsbD flag then some (read s) else none)

/-- ELEN and ENT, by EVALID (R259). -/
def checkedEntropy : State → Half × Option (List Byte) := checkedRead 4 readEntropy

/-- CSLEN and CSUM, by EVALID (R259). -/
def checkedChecksum : State → Half × Option (Half × Half) := checkedRead 4 readChecksum

/-- WCNT and IDX as an encoding, by IVALID (R259). -/
def checkedIndices : State → Half × Option (List Idx) := checkedRead 5 readIndices

/-- The sentence, by IVALID (R206, R259). -/
def checkedSentence (word : Wordlists) (g : Language) : State → Half × Option (List Char) := checkedRead 5 (readSentence word g)

/-- ECS and CSOK, by DVALID (R259). -/
def checkedStrip : State → Half × Option (Half × Bool) := checkedRead 6 readStrip

/-- SEED, by SVALID (R259). -/
def checkedSeed : State → Half × Option (List Byte) := checkedRead 8 readSeed

end Sys2Proof.Machine
end

