-- ==== Sys2Proof/Safety.lean ====
section
/-! DEFINITION. The terms claims are made in: the invariants of 10_state.md R53 in every phase, clean idle and the end of a run
(60_exceptions.md R245, R246), and which instructions are commands. -/

namespace Sys2Proof.Machine

/-- The eight commands (R93), as against the eight host transactions (R95). -/
def isCommand : Instr → Bool
  | .nop | .loade | .rande | .encode | .decode | .verify | .seed | .clr _ => true
  | .wrctrl _ _ | .cmdwr _ | .ack _ | .wrlang _ | .epush _ | .ipush _ _ | .ppush _ | .rd _ => false

/-- The invariants of R53 (the letter of each clause is R53's), stated for every phase, with what R53 needs to be kept by each
step: the sizes and ranges of R26 to R43, and in BUSY that the invalidations of acceptance still hold (R24, R116). -/
structure StateInv (s : State) : Prop where
  /-- (a): a valid entropy has a legal length, its checksum length and its checksum. -/
  entropyValid : s.evalid = true →
    (tripleOfElen s.elen.toNat).isSome = true ∧ s.cslen.toNat = s.elen.toNat / 4
      ∧ s.csum.toNat = (checksum Config.sha256 (entropyOf s)).2
  /-- (b): without a valid entropy nothing derived from it is valid. -/
  entropyInvalid : s.evalid = false → s.csum = 0 ∧ s.cslen = 0 ∧ s.ivalid = false ∧ s.svalid = false
  /-- (b): a strip result without an entropy is a mismatch (conflict C9). -/
  stripWithoutEntropy : s.evalid = false → s.dvalid = true → s.csok = false
  /-- (c). -/
  entTail : ∀ j, min s.elen.toNat 32 ≤ j → s.ent.getD j 0 = 0
  /-- (d). -/
  idxTail : ∀ i, min s.wcnt.toNat 24 ≤ i → s.idx.getD i 0 = 0
  /-- (e), and the unknown-word record is empty (R142). -/
  indicesValid : s.ivalid = true →
    s.evalid = true ∧ s.unkseen = false ∧ s.wcnt.toNat = (indices Config.sha256 (entropyOf s)).length
      ∧ indicesOf s = indices Config.sha256 (entropyOf s)
  /-- (f), with CSOK as R48 has it. -/
  stripValid : s.dvalid = true →
    s.unkseen = false ∧ ∃ u, unpackHeld s = some u ∧ s.ecs.toNat = u.x
      ∧ s.csok = ((checksum Config.sha256 u.ent).2 == u.x) ∧ (s.evalid = true → entropyOf s = u.ent)
  /-- R34, R48: without a strip result ECS and CSOK are 0. -/
  stripInvalid : s.dvalid = false → s.ecs = 0 ∧ s.csok = false
  /-- (g). -/
  seedValid : s.svalid = true →
    s.evalid = true ∧ s.povf = false ∧ s.seed = Config.pbkdf2 (entropyOf s) (saltOf s) 2048 64
  /-- (g). -/
  seedInvalid : s.svalid = false → s.seed = Vector.replicate 64 0
  /-- (h). -/
  passTail : ∀ i, s.plen.toNat ≤ i → s.pass.getD i 0 = 0
  /-- R9: PASS_MAX is at most 511. -/
  passSize : passMax s ≤ 511
  /-- R30: PLEN is at most PASS_MAX. -/
  plenBound : s.plen.toNat ≤ passMax s
  /-- R36, R232: on overflow the buffer is full. -/
  overflowFull : s.povf = true → s.plen.toNat = passMax s
  /-- (i). -/
  unknownRecord : s.unkseen = false → s.unkpos = 0
  /-- (j). -/
  errorDetail : s.err = 0 → s.errinfo = 0
  /-- R231: codes 9 to 15 are never produced. -/
  errorCode : s.err.toNat ≤ 8
  /-- R231, R236: code 5 is the fatal error's. -/
  fatalCode : s.err = 5 ↔ s.phase = .fault
  /-- R43: LANG holds no reserved code. -/
  langCode : s.lang.toNat ≤ 9
  /-- R116, R24: while a command is in flight DONE and ERR are 0. -/
  inFlight : s.phase = .busy → s.done = false ∧ s.err = 0
  /-- R116, R24: while a LOADE, RANDE or DECODE is in flight, InvalidateE still holds. -/
  acceptedConstructor : s.phase = .busy →
    decodeCmd s.opc = .ok .loade ∨ decodeCmd s.opc = .ok .rande ∨ decodeCmd s.opc = .ok .decode →
    s.evalid = false ∧ s.dvalid = false
  /-- R116, R24: while an ENCODE is in flight, InvalidateI and InvalidateD still hold. -/
  acceptedEncode : s.phase = .busy → decodeCmd s.opc = .ok .encode → s.ivalid = false ∧ s.dvalid = false
  /-- R116, R24: while a SEED is in flight, InvalidateS still holds. -/
  acceptedSeed : s.phase = .busy → decodeCmd s.opc = .ok .seed → s.svalid = false

/-- The bit at position `p` of the packed bitstring of the entropy held (R140), straight from the registers: the bits of ENT, then the
CSLEN bits of CSUM, most significant first. -/
def packedBit (s : State) (p : Nat) : Bool :=
  if p < 8 * s.elen.toNat then (s.ent.getD (p / 8) 0).getMsbD (p % 8)
  else s.csum.getLsbD (s.cslen.toNat - 1 - (p - 8 * s.elen.toNat))

/-- The bit at position `p` of the bit sequence of the indices held (R144), straight from the registers. -/
def heldBit (s : State) (p : Nat) : Bool := (s.idx.getD (p / 11) 0).getMsbD (p % 11)

/-- Clean idle (R246). -/
def CleanIdle (s : State) : Prop := s.phase = .idle ∧ StateInv s

/-- The end of a run (R245): the host has presented its last transaction and no command is in flight. -/
def RunEnded (s : State) : Prop := s.host = [] ∧ s.phase ≠ .busy

/-- No cycle the host still has is a reset. -/
def NoReset (s : State) : Prop := ∀ c ∈ s.host, ∀ b, c ≠ .reset b

/-- What the host can neither write nor be told of: the block's own state without the model's fields, for saying that nothing of
R21 changes. -/
def SameBlock (s t : State) : Prop :=
  t = { s with host := t.host, rdata := t.rdata, wait := t.wait, fresh := t.fresh }

end Sys2Proof.Machine
end

