-- ==== Sys2Proof/Certificates/Slice0/Obligations.lean ====
section
/-! DEFINITION. The statements for the provers, from the numbered rules of spec/. A right-hand side that is a record update states
the frame too: every field it does not name is unchanged. -/

open Sys2Proof Sys2Proof.Machine

/-! ## Reset -/

/-- R57: the value of every piece of state after reset, the derived ones and the constant ID among them. That PASS has 256 entries is the
default of R9, which the model takes for its reset state (DESIGN CHOICE, log entry 1). -/
def Obligations.ResetGivesEveryRegisterItsValue : Prop :=
  let s := State.reset
  s.phase = .idle ∧ s.opc = 0 ∧ (∀ j, s.ent.getD j 0 = 0) ∧ s.elen = 0 ∧ (∀ i, s.idx.getD i 0 = 0) ∧ s.wcnt = 0
    ∧ s.pass.length = 256
    ∧ (∀ i, s.pass.getD i 0 = 0) ∧ s.plen = 0 ∧ (∀ k, s.seed.getD k 0 = 0) ∧ s.csum = 0 ∧ s.cslen = 0 ∧ s.ecs = 0
    ∧ s.unkseen = false ∧ s.unkpos = 0 ∧ s.povf = false ∧ s.strict = false ∧ s.ie = false ∧ s.lang = 0 ∧ s.err = 0
    ∧ s.errinfo = 0 ∧ s.evalid = false ∧ s.ivalid = false ∧ s.dvalid = false ∧ s.csok = false ∧ s.svalid = false
    ∧ s.done = false ∧ regRead s 0x003 = 0x0000 ∧ regRead s 0x007 = 0x0020 ∧ irq s = false ∧ regRead s 0x000 = 0xB039

/-- R250, R251, R57: an edge with `rst` = 1 gives every register of the block its reset value, whatever phase the block was in and
whatever command was in flight. Only the model's own fields differ from State.reset: PASS keeps its size, the host goes on with
its next cycle. A write presented in the cycle leaves the host's `h_rdata` as it was. -/
def Obligations.ResetEdgeClearsTheBlock : Prop :=
  ∀ (s : State) (b : Option BusWord) (rest : List HostCycle), s.host = .reset b :: rest →
    ∃ t, step s = .next t
      ∧ t = { State.reset with
          pass := List.replicate s.pass.length 0, host := rest, rdata := t.rdata, fresh := t.fresh }
      ∧ ((∀ w, b = some w → busWe w = true) → t.rdata = s.rdata)

/-- R250, R236, R77: in FAULT nothing but an edge with `rst` = 1 changes a register of the block; in particular the phase stays FAULT
and ERR stays. -/
def Obligations.FaultIsLeftOnlyByReset : Prop :=
  ∀ s t : State, s.phase = .fault → (∀ b rest, s.host ≠ .reset b :: rest) → step s = .next t →
    SameBlock s t ∧ t.phase = .fault ∧ t.err = s.err

/-! ## Reading -/

/-- R71 with the map of R54: what a read returns in IDLE, for every register number, and that it changes nothing but the value the
host holds of `h_rdata`. -/
def Obligations.IdleReadFollowsTheMap : Prop :=
  ∀ s : State, s.phase = .idle →
    (∀ rn, exec (.rd rn) s = .next { s with rdata := regRead s rn })
    ∧ regRead s 0x000 = 0xB039
    ∧ regRead s 0x001 = BitVec.ofNat 16 (s.strict.toNat + 2 * s.ie.toNat)
    ∧ regRead s 0x003 = statusWord s
    ∧ regRead s 0x004 = s.err.setWidth 16
    ∧ regRead s 0x005 = s.errinfo
    ∧ regRead s 0x006 = s.lang.setWidth 16
    ∧ regRead s 0x007 = (if s.lang = 7 then 0x3000 else 0x0020)
    ∧ regRead s 0x008 = s.elen.setWidth 16
    ∧ regRead s 0x009 = s.wcnt.setWidth 16
    ∧ regRead s 0x00A = s.plen.setWidth 16
    ∧ regRead s 0x00B = s.cslen.setWidth 16
    ∧ regRead s 0x00C = s.csum.setWidth 16
    ∧ regRead s 0x00D = s.ecs.setWidth 16
    ∧ regRead s 0x00E = s.unkpos.setWidth 16
    ∧ (∀ i : Fin 32, regRead s (BitVec.ofNat 9 (0x020 + i)) = s.ent[i].setWidth 16)
    ∧ (∀ i : Fin 24, regRead s (BitVec.ofNat 9 (0x040 + i)) = s.idx[i].setWidth 16)
    ∧ (∀ k : Fin 64, regRead s (BitVec.ofNat 9 (0x080 + k)) = s.seed[k].setWidth 16)
    ∧ (∀ rn : RegNum, rn.toNat = 0x002 ∨ (0x00F ≤ rn.toNat ∧ rn.toNat ≤ 0x01F) ∨ (0x058 ≤ rn.toNat ∧ rn.toNat ≤ 0x07F)
        ∨ 0x0C0 ≤ rn.toNat → regRead s rn = 0)

/-- R75: while BUSY, ID, CTRL, STATUS, LANG and SEP read true and every other number reads 0. -/
def Obligations.BusyReadHidesTheData : Prop :=
  ∀ (s : State) (rn : RegNum), s.phase = .busy →
    exec (.rd rn) s = .next { s with rdata :=
      if rn = 0x000 then 0xB039
      else if rn = 0x001 then BitVec.ofNat 16 (s.strict.toNat + 2 * s.ie.toNat)
      else if rn = 0x003 then statusWord s
      else if rn = 0x006 then s.lang.setWidth 16
      else if rn = 0x007 then (if s.lang = 7 then 0x3000 else 0x0020)
      else 0 }

/-- R77: in FAULT, ID, CTRL, STATUS, ERR, ERRINFO, LANG and SEP read true and every other number reads 0. -/
def Obligations.FaultReadShowsTheError : Prop :=
  ∀ (s : State) (rn : RegNum), s.phase = .fault →
    exec (.rd rn) s = .next { s with rdata :=
      if rn = 0x000 then 0xB039
      else if rn = 0x001 then BitVec.ofNat 16 (s.strict.toNat + 2 * s.ie.toNat)
      else if rn = 0x003 then statusWord s
      else if rn = 0x004 then s.err.setWidth 16
      else if rn = 0x005 then s.errinfo
      else if rn = 0x006 then s.lang.setWidth 16
      else if rn = 0x007 then (if s.lang = 7 then 0x3000 else 0x0020)
      else 0 }

/-- R76: a reserved register number reads 0 and ignores writes in every phase. -/
def Obligations.ReservedNumbersReadZeroAndIgnoreWrites : Prop :=
  ∀ (s : State) (rn : RegNum),
    (rn.toNat = 0x00F ∨ (0x013 ≤ rn.toNat ∧ rn.toNat ≤ 0x01F) ∨ (0x058 ≤ rn.toNat ∧ rn.toNat ≤ 0x07F) ∨ 0x0C0 ≤ rn.toNat) →
    hostAccess (busWord false rn 0) s = .next { s with rdata := 0 } ∧ ∀ v, hostAccess (busWord true rn v) s = .next s

/-- R40, R51: the bits of STATUS. -/
def Obligations.StatusBitsShowTheState : Prop :=
  ∀ s : State,
    (statusWord s).getLsbD 0 = s.done
    ∧ (statusWord s).getLsbD 1 = decide (s.phase = .busy)
    ∧ (statusWord s).getLsbD 2 = decide (s.err ≠ 0)
    ∧ (statusWord s).getLsbD 3 = decide (s.phase = .fault)
    ∧ (statusWord s).getLsbD 4 = s.evalid ∧ (statusWord s).getLsbD 5 = s.ivalid
    ∧ (statusWord s).getLsbD 6 = s.dvalid ∧ (statusWord s).getLsbD 7 = s.csok
    ∧ (statusWord s).getLsbD 8 = s.svalid ∧ (statusWord s).getLsbD 9 = s.unkseen
    ∧ (statusWord s).getLsbD 10 = s.povf
    ∧ ∀ k, 11 ≤ k → (statusWord s).getLsbD k = false

/-- R37, R44: ID and SEP in every phase; writes to them are ignored. -/
def Obligations.IdAndSeparatorAreReadOnlyViews : Prop :=
  ∀ s : State,
    regRead s 0x000 = 0xB039 ∧ regRead s 0x007 = (if s.lang = 7 then 0x3000 else 0x0020)
    ∧ ∀ v, hostAccess (busWord true 0x000 v) s = .next s ∧ hostAccess (busWord true 0x007 v) s = .next s

/-- R29: only SEED reads PASS. Whatever bytes PASS holds, every other instruction (a read of any register number among them) leaves the
same state but for PASS itself. That a command write stores the same `wait` under another PASS, and RANDE takes the same draw, is the
model's choice (log entry 23). -/
def Obligations.PassphraseIsReadBySeedAlone : Prop :=
  ∀ (s t : State) (p : List Byte) (i : Instr), i ≠ .seed → p.length = s.pass.length → exec i s = .next t →
    ∃ q, q.length = t.pass.length ∧ exec i { s with pass := p } = .next { t with pass := q }

/-! ## Host writes -/

/-- R74, R77, R175: a write to any register number while BUSY or in FAULT changes nothing. -/
def Obligations.WritesOutsideIdleAreDropped : Prop :=
  ∀ (s : State) (b : BusWord), busWe b = true → s.phase ≠ .idle → hostAccess b s = .next s

/-- R72: what a write does in IDLE, by register number; a write to a read-only or reserved number does nothing. -/
def Obligations.HostWritesGoByRegisterNumber : Prop :=
  ∀ (s : State) (rn : RegNum) (v : Half), s.phase = .idle →
    hostAccess (busWord true rn v) s =
      (if rn = 0x001 then exec (.wrctrl (v.getLsbD 1) (v.getLsbD 0)) s
       else if rn = 0x002 then exec (.cmdwr v) s
       else if rn = 0x003 then exec (.ack (v.getLsbD 0)) s
       else if rn = 0x006 then exec (.wrlang (BitVec.ofNat 4 v.toNat)) s
       else if rn = 0x010 then exec (.epush (BitVec.ofNat 8 v.toNat)) s
       else if rn = 0x011 then exec (.ipush (v.getLsbD 15) (BitVec.ofNat 11 v.toNat)) s
       else if rn = 0x012 then exec (.ppush (BitVec.ofNat 8 v.toNat)) s
       else .next s)

/-- R110: WRCTRL. Bits 15:2 of the data are ignored and read back 0, and `irq` follows IE at once. -/
def Obligations.WrctrlStoresStrictAndIe : Prop :=
  ∀ (s : State) (v : Half), s.phase = .idle →
    decode (.bus (busWord true 0x001 v)) = .ok (.wrctrl (v.getLsbD 1) (v.getLsbD 0))
    ∧ ∃ t, exec (.wrctrl (v.getLsbD 1) (v.getLsbD 0)) s = .next t
      ∧ t = { s with strict := v.getLsbD 0, ie := v.getLsbD 1 }
      ∧ regRead t 0x001 = v &&& 0x0003 ∧ irq t = (v.getLsbD 1 && s.done)

/-- R111: WRLANG. Bits 15:4 of the data are ignored; codes 10 to 15 leave LANG unchanged. -/
def Obligations.WrlangStoresLegalCodes : Prop :=
  ∀ (s : State) (v : Half), s.phase = .idle →
    decode (.bus (busWord true 0x006 v)) = .ok (.wrlang (v.extractLsb' 0 4))
    ∧ exec (.wrlang (v.extractLsb' 0 4)) s
      = .next { s with lang := if v.toNat % 16 ≤ 9 then BitVec.ofNat 4 v.toNat else s.lang }

/-- R117: ACK. Only bit 0 of the data counts; DONE is cleared by a 1 and `irq` drops with it; ERR and ERRINFO stay. -/
def Obligations.AckClearsDone : Prop :=
  ∀ (s : State) (v : Half), s.phase = .idle →
    decode (.bus (busWord true 0x003 v)) = .ok (.ack (v.getLsbD 0))
    ∧ exec (.ack (v.getLsbD 0)) s = .next { s with done := s.done && !v.getLsbD 0 }
    ∧ ∀ t, exec (.ack true) s = .next t → irq t = false

/-- R112: EPUSH. -/
def Obligations.EpushAppendsAByte : Prop :=
  ∀ (s : State) (v : Half), s.phase = .idle →
    decode (.bus (busWord true 0x010 v)) = .ok (.epush (v.extractLsb' 0 8))
    ∧ exec (.epush (v.extractLsb' 0 8)) s = .next
      { s with
        ent := if s.elen.toNat < 32 then s.ent.setIfInBounds s.elen.toNat (v.extractLsb' 0 8) else s.ent
        elen := BitVec.ofNat 8 (min (s.elen.toNat + 1) 255)
        evalid := false, csum := 0, cslen := 0, svalid := false, seed := Vector.replicate 64 0
        dvalid := false, csok := false, ecs := 0, ivalid := false }

/-- R113: IPUSH. UNKPOS is WCNT before the increment, at the first marked write only. -/
def Obligations.IpushAppendsAnIndex : Prop :=
  ∀ (s : State) (v : Half), s.phase = .idle →
    decode (.bus (busWord true 0x011 v)) = .ok (.ipush (v.getLsbD 15) (v.extractLsb' 0 11))
    ∧ exec (.ipush (v.getLsbD 15) (v.extractLsb' 0 11)) s = .next
      { s with
        idx := if s.wcnt.toNat < 24 then s.idx.setIfInBounds s.wcnt.toNat (v.extractLsb' 0 11) else s.idx
        unkseen := if v.getLsbD 15 = true ∧ s.unkseen = false then true else s.unkseen
        unkpos := if v.getLsbD 15 = true ∧ s.unkseen = false then s.wcnt else s.unkpos
        wcnt := BitVec.ofNat 8 (min (s.wcnt.toNat + 1) 255)
        ivalid := false, dvalid := false, csok := false, ecs := 0 }

/-- R114: PPUSH, for every PASS_MAX (the length of PASS). -/
def Obligations.PpushAppendsOrOverflows : Prop :=
  ∀ (s : State) (v : Half), s.phase = .idle →
    decode (.bus (busWord true 0x012 v)) = .ok (.ppush (v.extractLsb' 0 8))
    ∧ (s.plen.toNat < s.pass.length → exec (.ppush (v.extractLsb' 0 8)) s = .next
        { s with
          pass := s.pass.set s.plen.toNat (v.extractLsb' 0 8), plen := BitVec.ofNat 9 (s.plen.toNat + 1)
          svalid := false, seed := Vector.replicate 64 0 })
    ∧ (s.pass.length ≤ s.plen.toNat → exec (.ppush (v.extractLsb' 0 8)) s = .next
        { s with povf := true, svalid := false, seed := Vector.replicate 64 0 })

/-- R116: acceptance of any word in IDLE; in BUSY and FAULT the write is dropped. OP is read from the word as a number. The model's own fields
`wait`, which takes some value (log entry 2), and `fresh`, which moves on (log entry 3), are DESIGN CHOICE. -/
def Obligations.CommandWriteAccepts : Prop :=
  ∀ (s : State) (w : CmdWord),
    (s.phase = .idle → ∃ k, exec (.cmdwr w) s = .next
      (let op := w.toNat % 16
       let legal := WellFormed.legalCmd w
       let e : Prop := legal = true ∧ (op = 1 ∨ op = 2 ∨ op = 4)
       let n : Prop := legal = true ∧ op = 3
       let d : Prop := legal = true ∧ op = 6
       { s with
         opc := w, phase := .busy, err := 0, errinfo := 0, done := false
         evalid := if e then false else s.evalid
         csum := if e then 0 else s.csum
         cslen := if e then 0 else s.cslen
         ivalid := if e ∨ n then false else s.ivalid
         dvalid := if e ∨ n then false else s.dvalid
         csok := if e ∨ n then false else s.csok
         ecs := if e ∨ n then 0 else s.ecs
         svalid := if e ∨ d then false else s.svalid
         seed := if e ∨ d then Vector.replicate 64 0 else s.seed
         wait := k, fresh := s.fresh + 1 }))
    ∧ (s.phase ≠ .idle → exec (.cmdwr w) s = .next s)

/-! ## Commands at completion -/

/-- R20: the sequencer acts only while PHASE is BUSY. -/
def Obligations.CommandsActOnlyInBusy : Prop :=
  ∀ (s : State) (i : Instr), isCommand i = true → s.phase ≠ .busy → exec i s = .next s

/-- R170: NOP, accepted and completed. Acceptance clears ERR, ERRINFO and DONE and invalidates nothing; it waits for no oracle; completion
sets DONE. The acceptance is that of the word 0x0000; its clauses for the model's own `wait` (log entry 2) and `fresh` (log entry 3) are
DESIGN CHOICE. -/
def Obligations.NopRuns : Prop :=
  ∀ s : State,
    (s.phase = .idle → ∃ k : Nat, exec (.cmdwr 0x0000) s = .next
      { s with opc := 0, phase := .busy, err := 0, errinfo := 0, done := false, wait := some k, fresh := s.fresh + 1 })
    ∧ (s.phase = .busy → exec .nop s = .next { s with phase := .idle, done := true })

/-- R131: LOADE, of a legal length and of any other. CSUM is the first digest byte shifted right by 8 - CS (R130, R32). The SHA oracle is
asked once, for the ELEN entropy bytes, and only when the length is legal. -/
def Obligations.LoadeConstructsOrRejects : Prop :=
  ∀ s : State, s.phase = .busy →
    (s.elen.toNat ∈ [16, 20, 24, 28, 32] → exec .loade s = .next
      { s with
        cslen := BitVec.ofNat 4 (s.elen.toNat / 4)
        csum := (Config.sha256 (s.ent.toList.take s.elen.toNat))[0] >>> (8 - s.elen.toNat / 4)
        evalid := true, phase := .idle, done := true }
      ∧ oracleRequests .loade s = [.sha (s.ent.toList.take s.elen.toNat)])
    ∧ (s.elen.toNat ∉ [16, 20, 24, 28, 32] → exec .loade s = .next
      { s with err := 1, errinfo := s.elen.setWidth 16, phase := .idle, done := true }
      ∧ oracleRequests .loade s = [])

/-- R133: RANDE, for the draw the RNG port gives, which is a free value. The RNG is asked once, then SHA once, for the draw.
That the draw is a function of the counter `fresh`, and that the counter moves on, are DESIGN CHOICE (log entry 3). -/
def Obligations.RandeConstructsFromTheDraw : Prop :=
  ∀ s : State, s.phase = .busy →
    let r := Config.rngDraw s.fresh
    exec .rande s = .next
      { s with
        ent := r, elen := 32, cslen := 8, csum := (Config.sha256 r.toList)[0], evalid := true
        phase := .idle, done := true, fresh := s.fresh + 1 }
    ∧ oracleRequests .rande s = [.rng, .sha r.toList]

/-- R141, R142: ENCODE, bit by bit. Bit `k` of IDX[i], most significant first, is bit `11*i + k` of the entropy bits followed by the
CSLEN checksum bits. A CSUM that does not fit in CSLEN bits, which no reachable state holds, leaves the checksum bits free. -/
def Obligations.EncodePacksTheBits : Prop :=
  ∀ s : State, s.phase = .busy → s.evalid = true → s.elen.toNat ∈ [16, 20, 24, 28, 32] → s.cslen.toNat = s.elen.toNat / 4 →
    ∃ t, exec .encode s = .next t
      ∧ t = { s with
          idx := t.idx, wcnt := BitVec.ofNat 8 (3 * s.elen.toNat / 4), unkseen := false, unkpos := 0, ivalid := true
          phase := .idle, done := true }
      ∧ (∀ i k, i < 3 * s.elen.toNat / 4 → k < 11 → 11 * i + k < 8 * s.elen.toNat ∨ s.csum.toNat < 2 ^ s.cslen.toNat →
          (t.idx.getD i 0).getMsbD k = packedBit s (11 * i + k))
      ∧ ∀ i, 3 * s.elen.toNat / 4 ≤ i → t.idx.getD i 0 = 0

/-- R142: ENCODE without a Mnemonic instance. -/
def Obligations.EncodeNeedsAnEntropy : Prop :=
  ∀ s : State, s.phase = .busy → s.evalid = false →
    exec .encode s = .next { s with err := 7, errinfo := 3, phase := .idle, done := true }

/-- R142, R143, R236: the count check that fails is fatal. Every register but PHASE, CTRL, LANG, ERR, ERRINFO and DONE takes its reset
value. Only a state outside the invariants gets here. -/
def Obligations.EncodeCountMismatchIsFatal : Prop :=
  ∀ s : State, s.phase = .busy → s.evalid = true → s.elen.toNat ∈ [16, 20, 24, 28, 32] →
    8 * s.elen.toNat + s.cslen.toNat ≠ 11 * (3 * s.elen.toNat / 4) →
    exec .encode s = .next
      { State.reset with
        phase := .fault, err := 5
        errinfo := BitVec.ofNat 16 ((3 * s.elen.toNat / 4) * 256 + (8 * s.elen.toNat + s.cslen.toNat) / 11), done := true
        strict := s.strict, ie := s.ie, lang := s.lang, pass := List.replicate s.pass.length 0
        host := s.host, rdata := s.rdata, wait := s.wait, fresh := s.fresh }

/-- R144, R145, R148: DECODE that succeeds (permissive, or the checksums agree). The recovered entropy is the leading bits of the
indices, ECS the low CS bits of the last index, CSUM the recomputed checksum. -/
def Obligations.DecodeRecoversTheEntropy : Prop :=
  ∀ (s : State) (e : List Byte) (m : Nat), s.phase = .busy → s.unkseen = false → m = s.wcnt.toNat → m ∈ [12, 15, 18, 21, 24] →
    e.length = 4 * m / 3 → (∀ j k, j < 4 * m / 3 → k < 8 → (e.getD j 0).getMsbD k = heldBit s (8 * j + k)) →
    let c : Byte := (Config.sha256 e)[0] >>> (8 - m / 3)
    let x : Byte := BitVec.ofNat 8 ((s.idx.getD (m - 1) 0).toNat % 2 ^ (m / 3))
    (s.strict = false ∨ c = x) →
    ∃ t, exec .decode s = .next t
      ∧ t = { s with
          ecs := x, csok := decide (c = x), dvalid := true, ent := t.ent, elen := BitVec.ofNat 8 (4 * m / 3)
          cslen := BitVec.ofNat 4 (m / 3), csum := c, evalid := true, phase := .idle, done := true }
      ∧ ∀ j, t.ent.getD j 0 = e.getD j 0

/-- R147: strict DECODE with a checksum that does not match. -/
def Obligations.StrictDecodeRejectsAMismatch : Prop :=
  ∀ (s : State) (e : List Byte) (m : Nat), s.phase = .busy → s.unkseen = false → m = s.wcnt.toNat → m ∈ [12, 15, 18, 21, 24] →
    e.length = 4 * m / 3 → (∀ j k, j < 4 * m / 3 → k < 8 → (e.getD j 0).getMsbD k = heldBit s (8 * j + k)) →
    let c : Byte := (Config.sha256 e)[0] >>> (8 - m / 3)
    let x : Byte := BitVec.ofNat 8 ((s.idx.getD (m - 1) 0).toNat % 2 ^ (m / 3))
    s.strict = true → c ≠ x →
    exec .decode s = .next
      { s with ecs := x, csok := false, dvalid := true, err := 4, errinfo := c ++ x, phase := .idle, done := true }

/-- R145, R146: the two input errors of DECODE, the unknown word first. -/
def Obligations.DecodeRejectsBadInput : Prop :=
  ∀ s : State, s.phase = .busy →
    (s.unkseen = true → exec .decode s = .next
      { s with err := 2, errinfo := BitVec.ofNat 16 (s.lang.toNat * 256 + s.unkpos.toNat), phase := .idle, done := true })
    ∧ (s.unkseen = false → s.wcnt.toNat ∉ [12, 15, 18, 21, 24] → exec .decode s = .next
      { s with err := 3, errinfo := s.wcnt.setWidth 16, phase := .idle, done := true })

/-- R149: VERIFY. -/
def Obligations.VerifyReportsTheComparison : Prop :=
  ∀ s : State, s.phase = .busy →
    (s.dvalid = false → exec .verify s = .next { s with err := 7, errinfo := 5, phase := .idle, done := true })
    ∧ (s.dvalid = true → s.csok = false → exec .verify s = .next
      { s with err := 4, errinfo := BitVec.ofNat 16 (s.csum.toNat * 256 + s.ecs.toNat), phase := .idle, done := true })
    ∧ (s.dvalid = true → s.csok = true → exec .verify s = .next { s with phase := .idle, done := true })

/-- R160: SEED. Password the ELEN entropy bytes, salt "mnemonic" and the PLEN passphrase bytes; the two refusals, the missing entropy first;
the KDF oracle is asked once and only when both checks pass. -/
def Obligations.SeedDerivesOrRefuses : Prop :=
  ∀ s : State, s.phase = .busy →
    (s.evalid = false → exec .seed s = .next { s with err := 7, errinfo := 6, phase := .idle, done := true }
      ∧ oracleRequests .seed s = [])
    ∧ (s.evalid = true → s.povf = true → exec .seed s = .next
      { s with err := 8, errinfo := s.plen.setWidth 16, phase := .idle, done := true }
      ∧ oracleRequests .seed s = [])
    ∧ (s.evalid = true → s.povf = false → s.elen.toNat ≤ 32 → s.plen.toNat ≤ s.pass.length →
      let password := s.ent.toList.take s.elen.toNat
      let salt := [0x6D, 0x6E, 0x65, 0x6D, 0x6F, 0x6E, 0x69, 0x63] ++ s.pass.take s.plen.toNat
      exec .seed s = .next
        { s with seed := Config.pbkdf2 password salt 2048 64, svalid := true, phase := .idle, done := true }
      ∧ oracleRequests .seed s = [.kdf password salt 2048 64])

/-- R171: CLR, for each of the sixteen masks. -/
def Obligations.ClrClearsTheGroups : Prop :=
  ∀ (s : State) (m : BitVec 4), s.phase = .busy →
    exec (.clr m) s = .next
      (let e := m.getLsbD 0 = true
       let i := m.getLsbD 1 = true
       let p := m.getLsbD 2 = true
       let d := m.getLsbD 3 = true
       { s with
         ent := if e then Vector.replicate 32 0 else s.ent
         elen := if e then 0 else s.elen
         evalid := if e then false else s.evalid
         csum := if e then 0 else s.csum
         cslen := if e then 0 else s.cslen
         idx := if i then Vector.replicate 24 0 else s.idx
         wcnt := if i then 0 else s.wcnt
         unkseen := if i then false else s.unkseen
         unkpos := if i then 0 else s.unkpos
         ivalid := if e ∨ i then false else s.ivalid
         dvalid := if e ∨ i then false else s.dvalid
         csok := if e ∨ i then false else s.csok
         ecs := if e ∨ i then 0 else s.ecs
         pass := if p then List.replicate s.pass.length 0 else s.pass
         plen := if p then 0 else s.plen
         povf := if p then false else s.povf
         svalid := if e ∨ p ∨ d then false else s.svalid
         seed := if e ∨ p ∨ d then Vector.replicate 64 0 else s.seed
         phase := .idle, done := true })

/-- R173: an illegal word is accepted, invalidates nothing, waits for no oracle and completes with IllegalCommand; no data register
changes. The clauses for the model's own `wait` (log entry 2) and `fresh` (log entry 3) are DESIGN CHOICE; that a step runs `completeLatched` is
StepCompletesTheLatchedCommand. -/
def Obligations.IllegalWordCompletesWithAnError : Prop :=
  ∀ s : State,
    (∀ w, s.phase = .idle → WellFormed.legalCmd w = false → ∃ k : Nat, exec (.cmdwr w) s = .next
      { s with opc := w, phase := .busy, err := 0, errinfo := 0, done := false, wait := some k, fresh := s.fresh + 1 })
    ∧ (s.phase = .busy → WellFormed.legalCmd s.opc = false →
      completeLatched s = .next { s with err := 6, errinfo := s.opc, phase := .idle, done := true })

/-- R238: `irq` is IE and DONE. It rises at the completion of any command, successful, failed or fatal, if IE = 1; it falls at ACK, at the
acceptance of the next command, at reset and when IE is cleared; in FAULT nothing but reset lowers it. -/
def Obligations.InterruptLineFollowsDoneAndIe : Prop :=
  ∀ s : State,
    irq s = (s.ie && s.done)
    ∧ (s.phase = .busy → ∀ i t, isCommand i = true → exec i s = .next t → irq t = s.ie)
    ∧ (s.phase = .busy → ∀ t, completeLatched s = .next t → irq t = s.ie)
    ∧ (s.phase = .idle → ∀ t, exec (.ack true) s = .next t → irq t = false)
    ∧ (s.phase = .idle → ∀ w t, exec (.cmdwr w) s = .next t → irq t = false)
    ∧ (s.phase = .idle → ∀ st t, exec (.wrctrl false st) s = .next t → irq t = false)
    ∧ (∀ b rest t, s.host = .reset b :: rest → step s = .next t → irq t = false)
    ∧ (s.phase = .fault → (∀ b rest, s.host ≠ .reset b :: rest) → ∀ t, step s = .next t → irq t = irq s)

/-- R43, R263: LANG changes no computation. Apart from the read of a register, the write of LANG itself and DECODE's report of an unknown
word, running an instruction under another language gives the same state under that language. That a command write stores the same `wait`, and
RANDE the same draw, is the model's choice (log entry 23). -/
def Obligations.LanguageChangesNoComputation : Prop :=
  ∀ (s t : State) (i : Instr) (l : BitVec 4), (∀ rn, i ≠ .rd rn) → (∀ c, i ≠ .wrlang c) → (i = .decode → s.unkseen = false) →
    exec i s = .next t → exec i { s with lang := l } = .next { t with lang := l }

/-- R174, R180, R184: which oracle each command asks, when, and the shape of each request: NOP, ENCODE, VERIFY, CLR and every host
transaction ask none; LOADE asks SHA when the length is legal, DECODE when its two input checks pass; RANDE asks the RNG and then SHA for a
message of 32 bytes; SEED asks the KDF when its two checks pass. -/
def Obligations.OracleTrafficOfEachCommand : Prop :=
  ∀ s : State,
    (∀ i, i = .nop ∨ i = .encode ∨ i = .verify ∨ (∃ m, i = .clr m) ∨ isCommand i = false → oracleRequests i s = [])
    ∧ (oracleRequests .loade s ≠ [] ↔ s.elen.toNat ∈ [16, 20, 24, 28, 32])
    ∧ (oracleRequests .decode s ≠ [] ↔ s.unkseen = false ∧ s.wcnt.toNat ∈ [12, 15, 18, 21, 24])
    ∧ (∀ i, i = .loade ∨ i = .decode → oracleRequests i s = [] ∨
        ∃ m, m.length ∈ [16, 20, 24, 28, 32] ∧ oracleRequests i s = [.sha m])
    ∧ (∃ m, m.length = 32 ∧ oracleRequests .rande s = [.rng, .sha m])
    ∧ (oracleRequests .seed s ≠ [] ↔ s.evalid = true ∧ s.povf = false)
    ∧ (oracleRequests .seed s = [] ∨ ∃ p salt, oracleRequests .seed s = [.kdf p salt 2048 64])
    ∧ (StateInv s → ∀ p salt c n, oracleRequests .seed s = [.kdf p salt c n] →
        p.length ∈ [16, 20, 24, 28, 32] ∧ salt.length = 8 + s.plen.toNat ∧ salt.length ≤ 8 + s.pass.length)

/-! ## The step -/

/-- R70, R24: a step runs the instruction the host presents. Outside BUSY that is all; in BUSY the sequencer's part follows in the same
cycle. The step takes the access from the host's list. -/
def Obligations.StepRunsThePresentedAccess : Prop :=
  ∀ (s : State) (b : BusWord) (rest : List HostCycle) (i : Instr), s.host = .access b :: rest → decode (.bus b) = .ok i →
    (s.phase ≠ .busy → step s = exec i { s with host := rest })
    ∧ (s.phase = .busy → ∀ t, exec i { s with host := rest } = .next t → step s = sequencerPart t)

/-- R24, R97, R173: a step in BUSY whose completion falls due completes the latched word, whatever the word is and whatever the host does
short of reset, which can change only the host's own fields in that cycle. A word that decodes runs as its instruction, an illegal one
as IllegalCommand. -/
def Obligations.StepCompletesTheLatchedCommand : Prop :=
  ∀ s : State, s.phase = .busy → s.wait = some 0 →
    (s.host = [] → step s = completeLatched s)
    ∧ (∀ rest, s.host = .quiet :: rest → step s = completeLatched { s with host := rest })
    ∧ ((∀ b rest, s.host ≠ .reset b :: rest) → ∃ v h, step s = completeLatched { s with rdata := v, host := h })
    ∧ (∀ i, decode (.cmd s.opc) = .ok i → completeLatched s = exec i s)
    ∧ (WellFormed.legalCmd s.opc = false →
        completeLatched s = .next { s with err := 6, errinfo := s.opc, phase := .idle, done := true })

/-- R99: the pseudo-operation `wait` reads STATUS and goes on to the next cycle's work once BUSY reads 0. -/
def Obligations.WaitPollsStatus : Prop :=
  ∀ (s : State) (rest : List HostCycle), s.host = .wait :: rest →
    (s.phase ≠ .busy → step s = .next { s with rdata := statusWord s, host := rest })
    ∧ (s.phase = .busy → step s = sequencerPart { s with rdata := statusWord s })

/-- R244: nothing stops the machine. Every state has a next state. -/
def Obligations.EveryStateHasANextState : Prop := ∀ s : State, ∃ t, step s = .next t

/-- R24, R266, R190: a command whose oracles answer completes. When the wait is `k`, the block stays in BUSY for `k` cycles in which no
register of it changes, whatever the host does short of reset, and the next step completes the latched word on those registers: the block is
then out of BUSY with DONE = 1. -/
def Obligations.CommandCompletesWhenTheOraclesAnswer : Prop :=
  ∀ (s : State) (k : Nat), s.phase = .busy → s.wait = some k → NoReset s →
    (∀ j, j ≤ k → ∃ t, Sys2Proof.core.run j s = .next t ∧ SameBlock s t ∧ t.phase = .busy)
    ∧ ∃ t, Sys2Proof.core.run (k + 1) s = .next t ∧ t.phase ≠ .busy ∧ t.done = true
        ∧ ∃ u, SameBlock s u ∧ completeLatched u = .next t

/-- R262: when an oracle never answers, the block stays in BUSY for ever, whatever the host does short of reset, and no register changes. -/
def Obligations.CommandHangsWhenAnOracleNeverAnswers : Prop :=
  ∀ (n : Nat) (s : State), s.phase = .busy → s.wait = none → NoReset s →
    ∃ t, Sys2Proof.core.run n s = .next t ∧ SameBlock s t ∧ t.wait = none

/-! ## Encoding -/

/-- R93 to R96: decoding an encoded instruction gives it back, with every operand at every value. -/
def Obligations.DecodingTheEncodingGivesTheInstruction : Prop := ∀ i : Instr, decode (encode i) = .ok i

/-- R97, R100, R72: the decoder accepts exactly the legal command words and the transactions of the table. -/
def Obligations.DecoderAcceptsExactlyTheLegalWords : Prop := ∀ c : CodeWord, (∃ i, decode c = .ok i) ↔ c.wellFormed = true

/-- R92, R93: a command word has one meaning and no ignored bit: encoding what the decoder read gives the word. -/
def Obligations.CommandWordsHaveNoIgnoredBits : Prop :=
  ∀ (w : CmdWord) (i : Instr), decodeCmd w = .ok i → encode i = .cmd w ∧ isCommand i = true

/-- R93 to R98: a few words of the spec's listings (30_encoding.md R93, R98; 95_test_vectors.md V83, P1 to P3). -/
def Obligations.ListedWordsDecode : Prop :=
  decodeTableWord 16 0x0000 = some .nop ∧ decodeTableWord 16 0x0002 = some .rande ∧ decodeTableWord 16 0x0004 = some .decode
    ∧ decodeTableWord 16 0x0006 = some .seed ∧ decodeTableWord 16 0x0F07 = some (.clr 15)
    ∧ decodeTableWord 16 0x0207 = some (.clr 2) ∧ decodeTableWord 16 0x0F03 = none
    ∧ decodeTableWord 32 0x2020004 = some (.cmdwr 4) ∧ decodeTableWord 32 0x2118000 = some (.ipush true 0)
    ∧ decodeTableWord 32 0x21000AA = some (.epush 0xAA) ∧ decodeTableWord 32 0x00B0000 = some (.rd 0x00B)

/-! ## Invariants -/

/-- R53: the invariants hold at reset. -/
def Obligations.InvariantsHoldAtReset : Prop := StateInv State.reset

/-- R53: every step keeps the invariants, in every phase and whatever the host does. -/
def Obligations.EveryStepKeepsTheInvariants : Prop := ∀ s t : State, StateInv s → step s = .next t → StateInv t

/-- R143: under the invariants the count check never fails: no step enters FAULT. -/
def Obligations.FaultIsUnreachable : Prop := ∀ s t : State, StateInv s → s.phase ≠ .fault → step s = .next t → t.phase ≠ .fault

/-- R134: after a successful LOADE, RANDE or DECODE, ELEN and CSLEN are a row of TRIPLES. Successful is ERR = 0. -/
def Obligations.ConstructorsSetTheChecksumLength : Prop :=
  ∀ (s t : State) (i : Instr), s.phase = .busy → i = .loade ∨ i = .rande ∨ i = .decode → exec i s = .next t → t.err = 0 →
    (t.elen.toNat, t.cslen.toNat) ∈ [(16, 4), (20, 5), (24, 6), (28, 7), (32, 8)]

/-- R151: ELEN and WCNT after a successful ENCODE or DECODE. Successful is ERR = 0. -/
def Obligations.WordCountsMatchTheEntropyLength : Prop :=
  ∀ (s t : State) (i : Instr), s.phase = .busy → i = .encode ∨ i = .decode → exec i s = .next t → t.err = 0 →
    (t.elen.toNat, t.wcnt.toNat) ∈ [(16, 12), (20, 15), (24, 18), (28, 21), (32, 24)]

/-- R150: stripping the packed indices of an entropy gives the entropy and its checksum back, for every SHA function. -/
def Obligations.UnpackInvertsIndices : Prop :=
  ∀ (sha : List Byte → Digest) (e : List Byte), e.length ∈ [16, 20, 24, 28, 32] →
    (indices sha e).length = 3 * e.length / 4 ∧ unpack (indices sha e) = some ⟨e, e.length / 4, (checksum sha e).2⟩

/-- R150 on the machine: from clean idle with a valid encoding held, accepting and completing DECODE recovers the entropy exactly and
finds the checksum right, in either mode. -/
def Obligations.DecodeAfterEncodeRecoversTheEntropy : Prop :=
  ∀ s t u : State, CleanIdle s → s.ivalid = true → exec (.cmdwr 0x0004) s = .next t → exec .decode t = .next u →
    u.ent = s.ent ∧ u.elen = s.elen ∧ u.csum = s.csum ∧ u.cslen = s.cslen ∧ u.evalid = true ∧ u.dvalid = true ∧ u.csok = true
      ∧ u.err = 0

/-- R149: permissive DECODE and then VERIFY succeeds exactly when strict DECODE does, and where the permissive DECODE succeeds the two
fail with the same error. -/
def Obligations.VerifyAgreesWithStrictDecode : Prop :=
  ∀ s p q u v : State, s.phase = .busy → s.err = 0 → s.dvalid = false →
    exec .decode { s with strict := false } = .next p → exec (.cmdwr 0x0005) p = .next q → exec .verify q = .next u →
    exec .decode { s with strict := true } = .next v →
    (u.err = 0 ↔ v.err = 0) ∧ (p.err = 0 → (u.err = 4 ↔ v.err = 4))

/-! ## The driver -/

/-- R201: looking a word of a list up gives its index, and a word is absent exactly when it is none of the 2048. -/
def Obligations.WordLookupInvertsTheList : Prop :=
  ∀ (word : Wordlists) (g : Language), WordlistsOk word →
    (∀ i, wordIndex word g (word g i) = some i) ∧ ∀ w, wordIndex word g w = none ↔ ∀ i, word g i ≠ w

/-- R150, R201, R208 at the level of sentences: splitting the sentence of an entropy and looking its words up gives the entropy's indices
again, in every language and for every splitter R208 allows. -/
def Obligations.SentenceRoundTrip : Prop :=
  ∀ (word : Wordlists) (isSpace : Char → Bool) (split : List Char → List WordText) (g : Language) (sha : List Byte → Digest)
      (e : List Byte),
    WordlistsOk word → SplitterOk isSpace split → (∀ i, word g i ≠ [] ∧ ∀ c ∈ word g i, isSpace c = false) →
    e.length ∈ [16, 20, 24, 28, 32] →
    ∃ ns, (split (joinWords (separatorOf g) ((indices sha e).map (word g)))).map (wordIndex word g) = ns.map some
      ∧ unpack ns = some ⟨e, e.length / 4, (checksum sha e).2⟩

/-- R207, R232: after a DECODE that meets an unknown word, the driver's report names the word at the position of the first unknown one and the
language that was selected, whichever of the ten it is. -/
def Obligations.UnknownWordNamesTheWordAndLanguage : Prop :=
  ∀ (s t : State) (g : Language) (words : List WordText), s.phase = .busy → s.unkseen = true → s.lang = languageCode g →
    exec .decode s = .next t →
    callResult words t = .unknownWord words[s.unkpos.toNat]? (some g)

/-- R211, R258, R74: a program that waits for its commands keeps, in every run, the duty of `writesAfterIdle`: between a command and the next
write it sees BUSY = 0 in a read of STATUS, or it resets the block. A host that keeps the duty, by `wait`, by its own reads of STATUS or by a
reset, never writes while the block is BUSY, so no write of it is lost there. That a reset ends the duty, with no read of STATUS after
it, is log entry 22 (DEDUCED from R250, R251). -/
def Obligations.WaitingHostNeverWritesWhileBusy : Prop :=
  ∀ (s : State) (n : Nat), s.phase ≠ .busy →
    (waitsForCommands false s.host = true → writesAfterIdle false (observed n s) = true)
    ∧ (writesAfterIdle false (observed (n + 1) s) = true → ∀ t, Sys2Proof.core.run n s = .next t → isWrite (presented t) = true →
        t.phase ≠ .busy)

/-- R211, R259, R210, R53: from clean idle, what the host reads with its validity flag set is what the flag promises, for each of the four
flags: by EVALID an entropy of legal length and its checksum, by IVALID its indices and its sentence in the selected language, by DVALID the embedded
checksum of the indices held and its comparison with the recomputed one, by SVALID the seed. -/
def Obligations.CheckedResultsAreTrue : Prop :=
  ∀ s : State, CleanIdle s →
    (∀ e, (checkedEntropy s).2 = some e → e = entropyOf s ∧ e.length ∈ [16, 20, 24, 28, 32])
    ∧ (∀ cs c, (checkedChecksum s).2 = some (cs, c) →
        cs.toNat = s.elen.toNat / 4 ∧ c.toNat = (checksum Config.sha256 (entropyOf s)).2)
    ∧ (∀ ns, (checkedIndices s).2 = some ns → ns = indices Config.sha256 (entropyOf s))
    ∧ (∀ (word : Wordlists) (g : Language) text, s.lang = languageCode g → (checkedSentence word g s).2 = some text →
        text = joinWords (separatorOf g) ((indices Config.sha256 (entropyOf s)).map (word g)))
    ∧ (∀ x ok, (checkedStrip s).2 = some (x, ok) →
        ∃ u, unpackHeld s = some u ∧ x.toNat = u.x ∧ ok = ((checksum Config.sha256 u.ent).2 == u.x)
          ∧ (s.evalid = true → entropyOf s = u.ent))
    ∧ ∀ k, (checkedSeed s).2 = some k → k = (Config.pbkdf2 (entropyOf s) (saltOf s) 2048 64).toList
end

