-- ==== Sys2Proof/Laws/Bits.lean ====
section
/-! SUPPORT. Laws of bit sequences (00_scope.md R10): lengths, the two directions between numbers and bits, and cutting a
concatenation of equal pieces. -/

namespace Sys2Proof.Machine

@[simp] theorem length_bin (n v : Nat) : (bin n v).length = n := by simp [bin]

theorem getElem_bin (n v k : Nat) (h : k < (bin n v).length) : (bin n v)[k] = v.testBit (n - 1 - k) := by simp [bin]

theorem bin_succ (n v : Nat) : bin (n + 1) v = v.testBit n :: bin n v := by
  simp only [bin, List.range_succ_eq_map, List.map_cons, List.map_map]
  refine congrArg₂ _ (by simp) (List.map_congr_left fun k _ => ?_)
  simp only [Function.comp_apply]
  congr 1
  omega

theorem uint_cons (b : Bool) (B : List Bool) : uint (b :: B) = b.toNat * 2 ^ B.length + uint B := by
  have key : ∀ (B : List Bool) (a : Nat),
      B.foldl (fun a b => 2 * a + b.toNat) a = a * 2 ^ B.length + B.foldl (fun a b => 2 * a + b.toNat) 0 := by
    intro B
    induction B with
    | nil => simp
    | cons c B ih =>
      intro a
      simp only [List.foldl_cons, List.length_cons, Nat.mul_zero, Nat.zero_add]
      rw [ih (2 * a + c.toNat), ih c.toNat]
      ring
  simp only [uint, List.foldl_cons, Nat.mul_zero, Nat.zero_add]
  exact key B b.toNat

theorem uint_append (A B : List Bool) : uint (A ++ B) = uint A * 2 ^ B.length + uint B := by
  induction A with
  | nil => simp [uint]
  | cons a A ih =>
    rw [List.cons_append, uint_cons, uint_cons, ih, List.length_append, pow_add]
    ring

theorem uint_lt (B : List Bool) : uint B < 2 ^ B.length := by
  induction B with
  | nil => simp [uint]
  | cons b B ih =>
    rw [uint_cons, List.length_cons, pow_succ]
    have : b.toNat ≤ 1 := Bool.toNat_le b
    nlinarith [Nat.two_pow_pos B.length]

theorem uint_bin_mod (n v : Nat) : uint (bin n v) = v % 2 ^ n := by
  induction n with
  | zero => simp [bin, uint, Nat.mod_one]
  | succ n ih =>
    rw [bin_succ, uint_cons, ih, length_bin, Nat.toNat_testBit, Nat.mod_pow_succ]
    ring

/-- `uint(bin_n(v)) = v` for `v < 2^n` (R10). -/
theorem uint_bin {n v : Nat} (h : v < 2 ^ n) : uint (bin n v) = v := by rw [uint_bin_mod, Nat.mod_eq_of_lt h]

theorem bin_mod (n v : Nat) : bin n (v % 2 ^ n) = bin n v := by
  refine List.ext_getElem (by simp) fun k h _ => ?_
  simp only [getElem_bin, Nat.testBit_mod_two_pow]
  have : n - 1 - k < n := by simp at h; omega
  simp [this]

/-- `bin_n(uint(B)) = B` for a sequence of `n` bits. -/
theorem bin_uint (B : List Bool) : bin B.length (uint B) = B := by
  induction B with
  | nil => simp [bin]
  | cons b B ih =>
    rw [List.length_cons, bin_succ, uint_cons]
    have hlt := uint_lt B
    congr 1
    · rw [Nat.testBit, Nat.shiftRight_eq_div_pow, Nat.add_comm, Nat.add_mul_div_right _ _ (Nat.two_pow_pos _), Nat.div_eq_of_lt hlt]
      cases b <;> simp
    · rw [← bin_mod, Nat.add_comm, Nat.add_mul_mod_self_right, bin_mod, ih]

theorem binFree_of_lt {n v : Nat} (h : v < 2 ^ n) : binFree n v = bin n v := by simp [binFree, h]

@[simp] theorem length_binFree (n v : Nat) : (binFree n v).length = n := by
  unfold binFree
  split <;> simp

theorem length_slice {B : List Bool} {i n : Nat} (h : i + n ≤ B.length) : (slice B i n).length = n := by
  simp [slice]
  omega

theorem getElem_slice {B : List Bool} {i n k : Nat} (h : k < (slice B i n).length) :
    (slice B i n)[k] = B[i + k]'(by simp [slice] at h; omega) := by simp [slice]

theorem slice_append_left {A B : List Bool} {i n : Nat} (h : i + n ≤ A.length) : slice (A ++ B) i n = slice A i n := by
  unfold slice
  rw [List.drop_append_of_le_length (by omega), List.take_append_of_le_length (by simp; omega)]

theorem slice_append_right (A B : List Bool) (n : Nat) : slice (A ++ B) A.length n = slice B 0 n := by simp [slice]

theorem slice_all (B : List Bool) : slice B 0 B.length = B := by simp [slice]

/-- A concatenation of pieces of `n` bits has `n` times as many bits as there are pieces. -/
theorem length_flatMap_pieces {α : Type} (f : α → List Bool) (n : Nat) (hf : ∀ a, (f a).length = n) (l : List α) :
    (l.flatMap f).length = n * l.length := by
  induction l with
  | nil => simp
  | cons a l ih =>
    rw [List.flatMap_cons, List.length_append, hf, ih, List.length_cons]
    ring

/-- Cutting a concatenation of pieces of `n` bits at a multiple of `n` gives the piece. -/
theorem slice_flatMap_pieces {α : Type} (f : α → List Bool) (n : Nat) (hf : ∀ a, (f a).length = n) (l : List α) (i : Nat)
    (hi : i < l.length) : slice (l.flatMap f) (n * i) n = f l[i] := by
  induction l generalizing i with
  | nil => simp at hi
  | cons a l ih =>
    cases i with
    | zero => simp [slice, hf]
    | succ i =>
      have h := ih i (by simpa using hi)
      rw [List.flatMap_cons, Nat.mul_succ, Nat.add_comm, slice, ← List.drop_drop]
      rw [show List.drop n (f a ++ List.flatMap f l) = List.flatMap f l by rw [← hf a, List.drop_left]]
      simpa [slice] using h

/-- Putting the cut pieces together again gives the sequence back. -/
theorem flatMap_slices (B : List Bool) (n m : Nat) (h : B.length = n * m) :
    ((List.range m).flatMap fun i => slice B (n * i) n) = B := by
  induction m generalizing B with
  | zero => simpa using (List.length_eq_zero_iff.mp (by simpa using h)).symm
  | succ m ih =>
    rw [List.range_succ_eq_map, List.flatMap_cons, List.flatMap_map]
    have hd := ih (B.drop n) (by rw [List.length_drop, h, Nat.mul_succ]; omega)
    have : (fun i => slice B (n * (i + 1)) n) = fun i => slice (B.drop n) (n * i) n := by
      funext i
      rw [slice, slice, List.drop_drop, Nat.mul_succ, Nat.add_comm n]
    simp only [Nat.succ_eq_add_one, this, hd]
    simp [slice]

@[simp] theorem length_bitsOf (l : List Byte) : (bitsOf l).length = 8 * l.length :=
  length_flatMap_pieces _ 8 (fun _ => length_bin _ _) l

@[simp] theorem length_indexBits (l : List Idx) : (indexBits l).length = 11 * l.length :=
  length_flatMap_pieces _ 11 (fun _ => length_bin _ _) l

/-- A byte cut out of the bits of a byte sequence, as a number. -/
theorem uint_slice_bitsOf (l : List Byte) (j : Nat) (h : j < l.length) : uint (slice (bitsOf l) (8 * j) 8) = l[j].toNat := by
  rw [bitsOf, slice_flatMap_pieces _ 8 (fun _ => length_bin _ _) l j h, uint_bin l[j].isLt]

/-- Bit `k` of piece `i` is bit `n*i + k` of the concatenation. -/
theorem getElem_flatMap_pieces {α : Type} (f : α → List Bool) (n : Nat) (hf : ∀ a, (f a).length = n) (l : List α) (i k : Nat)
    (hi : i < l.length) (hk : k < n) :
    (l.flatMap f)[n * i + k]? = (f l[i])[k]? := by
  have h := slice_flatMap_pieces f n hf l i hi
  rw [← h, slice, List.getElem?_take, if_pos hk, List.getElem?_drop]

/-- Bit `k` of a byte, most significant first. -/
theorem getElem?_bin_toNat {w : Nat} (x : BitVec w) (k : Nat) (h : k < w) : (bin w x.toNat)[k]? = some (x.getMsbD k) := by
  rw [List.getElem?_eq_getElem (by simpa using h), getElem_bin]
  simp [BitVec.getMsbD, h, BitVec.getLsbD]

theorem ofNat_uint_getMsbD {w : Nat} (B : List Bool) (hB : B.length = w) (k : Nat) (hk : k < w) :
    some ((BitVec.ofNat w (uint B)).getMsbD k) = B[k]? := by
  rw [← getElem?_bin_toNat _ k hk, BitVec.toNat_ofNat, bin_mod]
  subst hB
  rw [bin_uint]

end Sys2Proof.Machine
end

