-- ==== Sys2Proof/Laws/Codec.lean ====
section
/-! SUPPORT. Laws of the codec's data forms: the table TRIPLES (00_scope.md R8, 20_memory.md R84), the checksum
(41_entropy_commands.md R130), what a register file holds after a fill, and the entropy and indices read from the registers. -/

namespace Sys2Proof.Machine

/-! ## TRIPLES -/

/-- The rows of TRIPLES, by entropy length: the arithmetic of R84. -/
theorem tripleOfElen_eq_some {n : Nat} {t : Triple} (h : tripleOfElen n = some t) :
    n ∈ [16, 20, 24, 28, 32] ∧ t.elen = n ∧ t.cs = n / 4 ∧ t.ms = 3 * n / 4 := by
  have hm := List.mem_of_find?_eq_some h
  have hp := List.find?_some h
  simp only [triples, List.mem_cons, List.not_mem_nil, or_false] at hm
  rcases hm with rfl | rfl | rfl | rfl | rfl <;> simp at hp <;> subst hp <;> decide

/-- The rows of TRIPLES, by word count: `CS = MS/3` and `ELEN = 4*MS/3` (R84). -/
theorem tripleOfMs_eq_some {m : Nat} {t : Triple} (h : tripleOfMs m = some t) :
    m ∈ [12, 15, 18, 21, 24] ∧ t.ms = m ∧ t.cs = m / 3 ∧ t.elen = 4 * m / 3 := by
  have hm := List.mem_of_find?_eq_some h
  have hp := List.find?_some h
  simp only [triples, List.mem_cons, List.not_mem_nil, or_false] at hm
  rcases hm with rfl | rfl | rfl | rfl | rfl <;> simp at hp <;> subst hp <;> decide

theorem tripleOfElen_of_mem {n : Nat} (h : n ∈ [16, 20, 24, 28, 32]) : tripleOfElen n = some ⟨n, n / 4, 3 * n / 4⟩ := by
  simp only [List.mem_cons, List.not_mem_nil, or_false] at h
  rcases h with rfl | rfl | rfl | rfl | rfl <;> rfl

theorem tripleOfMs_of_mem {m : Nat} (h : m ∈ [12, 15, 18, 21, 24]) : tripleOfMs m = some ⟨4 * m / 3, m / 3, m⟩ := by
  simp only [List.mem_cons, List.not_mem_nil, or_false] at h
  rcases h with rfl | rfl | rfl | rfl | rfl <;> rfl

theorem tripleOfElen_isSome_iff (n : Nat) : (tripleOfElen n).isSome = true ↔ n ∈ [16, 20, 24, 28, 32] := by
  constructor
  · intro h
    obtain ⟨t, ht⟩ := Option.isSome_iff_exists.mp h
    exact (tripleOfElen_eq_some ht).1
  · intro h
    rw [tripleOfElen_of_mem h]
    rfl

theorem tripleOfMs_isSome_iff (m : Nat) : (tripleOfMs m).isSome = true ↔ m ∈ [12, 15, 18, 21, 24] := by
  constructor
  · intro h
    obtain ⟨t, ht⟩ := Option.isSome_iff_exists.mp h
    exact (tripleOfMs_eq_some ht).1
  · intro h
    rw [tripleOfMs_of_mem h]
    rfl

/-! ## The checksum -/

@[simp] theorem checksumOf_fst (d : Digest) (n : Nat) : (checksumOf d n).1 = n / 4 := rfl

@[simp] theorem checksum_fst (sha : List Byte → Digest) (e : List Byte) : (checksum sha e).1 = e.length / 4 := rfl

/-- The checksum fits in its CS bits. -/
theorem checksum_lt (sha : List Byte → Digest) (e : List Byte) (h : e.length ≤ 32) :
    (checksum sha e).2 < 2 ^ (e.length / 4) := by
  have hl : (slice (bitsOf (sha e).toList) 0 (e.length / 4)).length = e.length / 4 := length_slice (by simp; omega)
  have := uint_lt (slice (bitsOf (sha e).toList) 0 (e.length / 4))
  rwa [hl] at this

/-- The leading bits of a byte are the byte shifted right. -/
theorem uint_take_bin (v cs : Nat) (hv : v < 2 ^ 8) : uint ((bin 8 v).take cs) = v >>> (8 - cs) := by
  have hsplit := List.take_append_drop cs (bin 8 v)
  have h := uint_append ((bin 8 v).take cs) ((bin 8 v).drop cs)
  rw [hsplit, uint_bin hv] at h
  have hlt := uint_lt ((bin 8 v).drop cs)
  rw [List.length_drop, length_bin] at h hlt
  conv_rhs => rw [Nat.shiftRight_eq_div_pow, h, Nat.mul_comm, Nat.mul_add_div (Nat.two_pow_pos _), Nat.div_eq_of_lt hlt]
  simp

/-- The checksum is the first digest byte shifted right by `8 - CS` (R130, R182). -/
theorem checksum_snd (sha : List Byte → Digest) (e : List Byte) (h : e.length ≤ 32) :
    (checksum sha e).2 = ((sha e)[0] >>> (8 - e.length / 4)).toNat := by
  have h0 : (sha e).toList = (sha e)[0] :: (sha e).toList.tail := by
    have hlen : (sha e).toList.length = 32 := by simp
    rcases hl : (sha e).toList with _ | ⟨a, l⟩
    · rw [hl] at hlen
      simp at hlen
    · have : (sha e)[0] = (sha e).toList[0]'(by simp) := by simp
      rw [this]
      simp [hl]
  simp only [checksum, checksumOf, slice, List.drop_zero]
  rw [h0, bitsOf, List.flatMap_cons, List.take_append_of_le_length (by simp; omega),
    uint_take_bin _ _ (sha e)[0].isLt, BitVec.toNat_ushiftRight]

/-! ## Register files -/

theorem getD_fill {w : Nat} (n : Nat) (l : List (BitVec w)) (i : Nat) (h : i < n) : (fill n l).getD i 0 = l.getD i 0 := by
  simp [fill, Vector.getD, h]

theorem toList_fill {w : Nat} (n : Nat) (l : List (BitVec w)) (h : l.length ≤ n) :
    (fill n l).toList = l ++ List.replicate (n - l.length) 0 := by
  refine List.ext_getElem (by simp; omega) fun i h1 h2 => ?_
  have hi : i < n := by simpa using h1
  simp only [fill, Vector.getElem_toList, Vector.getElem_ofFn, List.getElem_append, List.getElem_replicate]
  split
  · rename_i hl
    exact List.getD_eq_getElem l 0 hl
  · rename_i hl
    exact List.getD_eq_default l 0 (by omega)

/-- Taking the filled part of a register file gives the list back. -/
theorem take_toList_fill {w : Nat} (n : Nat) (l : List (BitVec w)) (h : l.length ≤ n) :
    (fill n l).toList.take l.length = l := by rw [toList_fill n l h, List.take_left]

/-- A register file reads as its list of entries does. -/
theorem getD_eq_toList {w n : Nat} (v : Vector (BitVec w) n) (i : Nat) : v.getD i 0 = v.toList.getD i 0 := by
  rcases v with ⟨⟨l⟩, rfl⟩
  simp [Vector.getD, Array.getD, List.getD]
  split <;> simp_all

theorem getD_of_le {w n : Nat} (v : Vector (BitVec w) n) (i : Nat) (h : n ≤ i) : v.getD i 0 = 0 := by
  rw [getD_eq_toList]
  simp [h]

/-- A cleared register file reads 0 everywhere. -/
@[simp] theorem getD_replicate_zero {w : Nat} (n i : Nat) : (Vector.replicate n (0 : BitVec w)).getD i 0 = 0 := by
  rw [getD_eq_toList, Vector.toList_replicate, List.getD_eq_getElem?_getD, List.getElem?_replicate]
  split <;> rfl

@[simp] theorem list_getD_replicate_zero {w : Nat} (n i : Nat) : (List.replicate n (0 : BitVec w)).getD i 0 = 0 := by
  rw [List.getD_eq_getElem?_getD, List.getElem?_replicate]
  split <;> rfl

@[simp] theorem length_entropyOf (s : State) : (entropyOf s).length = s.elen.toNat := by simp [entropyOf]

/-- An entropy of at most 32 bytes is the leading part of ENT. -/
theorem entropyOf_eq_take (s : State) (h : s.elen.toNat ≤ 32) : entropyOf s = s.ent.toList.take s.elen.toNat := by
  refine List.ext_getElem (by simp; omega) fun j h1 _ => ?_
  have hj : j < 32 := by simp at h1; omega
  simp [entropyOf, hj, Vector.getD]

/-- A passphrase of at most PASS_MAX bytes is the leading part of PASS. -/
theorem passphraseOf_eq_take (s : State) (h : s.plen.toNat ≤ passMax s) : passphraseOf s = s.pass.take s.plen.toNat := by
  have hp : s.plen.toNat ≤ s.pass.length := h
  refine List.ext_getElem (by simp [passphraseOf, hp]) fun j h1 _ => ?_
  have hj : j < passMax s := by simp [passphraseOf] at h1; omega
  have hj' : j < s.pass.length := hj
  simp [passphraseOf, hj, hj', List.getD]

theorem length_indicesOf (s : State) : (indicesOf s).length = min s.wcnt.toNat 24 := by simp [indicesOf]

@[simp] theorem length_groups (B : List Bool) : (groups B).length = B.length / 11 := by simp [groups]

/-- Bit `k` of group `i` is bit `11*i + k` of the sequence (R141). -/
theorem getElem_groups (B : List Bool) (i k : Nat) (hi : i < (groups B).length) (hk : k < 11) :
    some ((groups B)[i].getMsbD k) = B[11 * i + k]? := by
  have hB : 11 * i + 11 ≤ B.length := by simp at hi; omega
  have hl := length_slice hB
  simp only [groups, List.getElem_map, List.getElem_range]
  rw [ofNat_uint_getMsbD _ hl k hk, slice, List.getElem?_take, if_pos hk, List.getElem?_drop]

/-- Putting the groups together again gives the sequence, when no bit is left over. -/
theorem indexBits_groups (B : List Bool) (m : Nat) (h : B.length = 11 * m) : indexBits (groups B) = B := by
  have h11 : B.length / 11 = m := by omega
  rw [indexBits, groups, List.flatMap_map, h11]
  conv_rhs => rw [← flatMap_slices B 11 m h]
  simp only [List.flatMap_def]
  congr 1
  refine List.map_congr_left fun i hi => ?_
  have hl : (slice B (11 * i) 11).length = 11 := length_slice (by have := List.mem_range.mp hi; omega)
  rw [BitVec.toNat_ofNat, bin_mod]
  conv_rhs => rw [← bin_uint (slice B (11 * i) 11), hl]

end Sys2Proof.Machine
end

