-- ==== Sys2Proof/Laws/Encoding.lean ====
section
/-! SUPPORT. Laws of the two formats (30_encoding.md R91, R92): the fields of a built word, what a word is made of, and which kind
of instruction each format names. -/

namespace Sys2Proof

theorem busWe_busWord (we : Bool) (rn : RegNum) (d : Half) : busWe (busWord we rn d) = we := by
  simp only [busWe, busWord, BitVec.getLsbD_append]
  cases we <;> simp

theorem busRn_busWord (we : Bool) (rn : RegNum) (d : Half) : busRn (busWord we rn d) = rn := by
  refine BitVec.eq_of_getLsbD_eq fun i hi => ?_
  simp only [busRn, busWord, BitVec.getLsbD_extractLsb', BitVec.getLsbD_append]
  simp [hi]

theorem busData_busWord (we : Bool) (rn : RegNum) (d : Half) : busData (busWord we rn d) = d := by
  refine BitVec.eq_of_getLsbD_eq fun i hi => ?_
  simp only [busData, busWord, BitVec.getLsbD_extractLsb', BitVec.getLsbD_append]
  simp [hi]

/-- A transaction is its three fields. -/
theorem busWord_fields (b : BusWord) : busWord (busWe b) (busRn b) (busData b) = b := by
  refine BitVec.eq_of_getLsbD_eq fun i hi => ?_
  simp only [busWord, busWe, busRn, busData, BitVec.getLsbD_append, BitVec.getLsbD_extractLsb']
  split
  · simp_all
  · split
    · simp only [*, decide_true, Bool.true_and]
      congr 1
      omega
    · obtain rfl : i = 25 := by omega
      simp

/-- The four fields of a built command word. -/
theorem cmdWord_fields (m op : BitVec 4) :
    cmdOp (cmdWord m op) = op ∧ cmdM (cmdWord m op) = m ∧ cmdZ0 (cmdWord m op) = 0 ∧ cmdZ1 (cmdWord m op) = 0 := by
  revert m op
  decide +kernel

/-- A command word whose reserved fields are 0 is its two other fields. -/
theorem cmdWord_of_fields (w : CmdWord) (h0 : cmdZ0 w = 0) (h1 : cmdZ1 w = 0) : cmdWord (cmdM w) (cmdOp w) = w := by
  have key : cmdWord (cmdM w) (cmdOp w) = cmdZ1 w ++ cmdM w ++ cmdZ0 w ++ cmdOp w := by rw [h0, h1]; rfl
  rw [key]
  refine BitVec.eq_of_getLsbD_eq fun i hi => ?_
  simp only [cmdZ0, cmdZ1, cmdM, cmdOp, BitVec.getLsbD_append, BitVec.getLsbD_extractLsb']
  repeat' split
  all_goals
    rw [decide_eq_true (by omega), Bool.true_and]
    congr 1
    omega

/-- A read names RD with the register number of the word. -/
theorem decodeBus_read (b : BusWord) (h : busWe b = false) : decodeBus b = .ok (.rd (busRn b)) := by simp [decodeBus, h]

theorem decodeBus_write (b : BusWord) (h : busWe b = true) : decodeBus b = decodeWrite (busRn b) (busData b) := by
  simp [decodeBus, h]

/-- `OP < 8`, case by case. -/
theorem op_lt_eight_iff (a : BitVec 4) :
    a.toNat < 8 ↔ a = 0 ∨ a = 1 ∨ a = 2 ∨ a = 3 ∨ a = 4 ∨ a = 5 ∨ a = 6 ∨ a = 7 := by
  revert a
  decide

end Sys2Proof
end

