-- ==== Sys2Proof/Laws/State.lean ====
section
/-! SUPPORT. What each field is after each named update of State: one lemma per field and update, true by rfl, so that no later proof
unfolds a record update. Then PASS_MAX, which no update changes. -/

namespace Sys2Proof.Machine

/-! ## State.reset (R57) -/

@[simp] theorem reset_phase : State.reset.phase = .idle := rfl
@[simp] theorem reset_opc : State.reset.opc = 0 := rfl
@[simp] theorem reset_ent : State.reset.ent = Vector.replicate 32 0 := rfl
@[simp] theorem reset_elen : State.reset.elen = 0 := rfl
@[simp] theorem reset_idx : State.reset.idx = Vector.replicate 24 0 := rfl
@[simp] theorem reset_wcnt : State.reset.wcnt = 0 := rfl
@[simp] theorem reset_pass : State.reset.pass = List.replicate Config.passMaxDefault 0 := rfl
@[simp] theorem reset_plen : State.reset.plen = 0 := rfl
@[simp] theorem reset_seed : State.reset.seed = Vector.replicate 64 0 := rfl
@[simp] theorem reset_csum : State.reset.csum = 0 := rfl
@[simp] theorem reset_cslen : State.reset.cslen = 0 := rfl
@[simp] theorem reset_ecs : State.reset.ecs = 0 := rfl
@[simp] theorem reset_unkseen : State.reset.unkseen = false := rfl
@[simp] theorem reset_unkpos : State.reset.unkpos = 0 := rfl
@[simp] theorem reset_povf : State.reset.povf = false := rfl
@[simp] theorem reset_strict : State.reset.strict = false := rfl
@[simp] theorem reset_ie : State.reset.ie = false := rfl
@[simp] theorem reset_lang : State.reset.lang = 0 := rfl
@[simp] theorem reset_err : State.reset.err = 0 := rfl
@[simp] theorem reset_errinfo : State.reset.errinfo = 0 := rfl
@[simp] theorem reset_evalid : State.reset.evalid = false := rfl
@[simp] theorem reset_ivalid : State.reset.ivalid = false := rfl
@[simp] theorem reset_dvalid : State.reset.dvalid = false := rfl
@[simp] theorem reset_csok : State.reset.csok = false := rfl
@[simp] theorem reset_svalid : State.reset.svalid = false := rfl
@[simp] theorem reset_done : State.reset.done = false := rfl
@[simp] theorem reset_host : State.reset.host = [] := rfl
@[simp] theorem reset_rdata : State.reset.rdata = 0 := rfl
@[simp] theorem reset_wait : State.reset.wait = none := rfl
@[simp] theorem reset_fresh : State.reset.fresh = 0 := rfl

/-! ## invalidateS: InvalidateS (R52) -/

@[simp] theorem invalidateS_phase (s : State) : (invalidateS s).phase = s.phase := rfl
@[simp] theorem invalidateS_opc (s : State) : (invalidateS s).opc = s.opc := rfl
@[simp] theorem invalidateS_ent (s : State) : (invalidateS s).ent = s.ent := rfl
@[simp] theorem invalidateS_elen (s : State) : (invalidateS s).elen = s.elen := rfl
@[simp] theorem invalidateS_idx (s : State) : (invalidateS s).idx = s.idx := rfl
@[simp] theorem invalidateS_wcnt (s : State) : (invalidateS s).wcnt = s.wcnt := rfl
@[simp] theorem invalidateS_pass (s : State) : (invalidateS s).pass = s.pass := rfl
@[simp] theorem invalidateS_plen (s : State) : (invalidateS s).plen = s.plen := rfl
@[simp] theorem invalidateS_seed (s : State) : (invalidateS s).seed = Vector.replicate 64 0 := rfl
@[simp] theorem invalidateS_csum (s : State) : (invalidateS s).csum = s.csum := rfl
@[simp] theorem invalidateS_cslen (s : State) : (invalidateS s).cslen = s.cslen := rfl
@[simp] theorem invalidateS_ecs (s : State) : (invalidateS s).ecs = s.ecs := rfl
@[simp] theorem invalidateS_unkseen (s : State) : (invalidateS s).unkseen = s.unkseen := rfl
@[simp] theorem invalidateS_unkpos (s : State) : (invalidateS s).unkpos = s.unkpos := rfl
@[simp] theorem invalidateS_povf (s : State) : (invalidateS s).povf = s.povf := rfl
@[simp] theorem invalidateS_strict (s : State) : (invalidateS s).strict = s.strict := rfl
@[simp] theorem invalidateS_ie (s : State) : (invalidateS s).ie = s.ie := rfl
@[simp] theorem invalidateS_lang (s : State) : (invalidateS s).lang = s.lang := rfl
@[simp] theorem invalidateS_err (s : State) : (invalidateS s).err = s.err := rfl
@[simp] theorem invalidateS_errinfo (s : State) : (invalidateS s).errinfo = s.errinfo := rfl
@[simp] theorem invalidateS_evalid (s : State) : (invalidateS s).evalid = s.evalid := rfl
@[simp] theorem invalidateS_ivalid (s : State) : (invalidateS s).ivalid = s.ivalid := rfl
@[simp] theorem invalidateS_dvalid (s : State) : (invalidateS s).dvalid = s.dvalid := rfl
@[simp] theorem invalidateS_csok (s : State) : (invalidateS s).csok = s.csok := rfl
@[simp] theorem invalidateS_svalid (s : State) : (invalidateS s).svalid = false := rfl
@[simp] theorem invalidateS_done (s : State) : (invalidateS s).done = s.done := rfl
@[simp] theorem invalidateS_host (s : State) : (invalidateS s).host = s.host := rfl
@[simp] theorem invalidateS_rdata (s : State) : (invalidateS s).rdata = s.rdata := rfl
@[simp] theorem invalidateS_wait (s : State) : (invalidateS s).wait = s.wait := rfl
@[simp] theorem invalidateS_fresh (s : State) : (invalidateS s).fresh = s.fresh := rfl

/-! ## invalidateD: InvalidateD (R52) -/

@[simp] theorem invalidateD_phase (s : State) : (invalidateD s).phase = s.phase := rfl
@[simp] theorem invalidateD_opc (s : State) : (invalidateD s).opc = s.opc := rfl
@[simp] theorem invalidateD_ent (s : State) : (invalidateD s).ent = s.ent := rfl
@[simp] theorem invalidateD_elen (s : State) : (invalidateD s).elen = s.elen := rfl
@[simp] theorem invalidateD_idx (s : State) : (invalidateD s).idx = s.idx := rfl
@[simp] theorem invalidateD_wcnt (s : State) : (invalidateD s).wcnt = s.wcnt := rfl
@[simp] theorem invalidateD_pass (s : State) : (invalidateD s).pass = s.pass := rfl
@[simp] theorem invalidateD_plen (s : State) : (invalidateD s).plen = s.plen := rfl
@[simp] theorem invalidateD_seed (s : State) : (invalidateD s).seed = s.seed := rfl
@[simp] theorem invalidateD_csum (s : State) : (invalidateD s).csum = s.csum := rfl
@[simp] theorem invalidateD_cslen (s : State) : (invalidateD s).cslen = s.cslen := rfl
@[simp] theorem invalidateD_ecs (s : State) : (invalidateD s).ecs = 0 := rfl
@[simp] theorem invalidateD_unkseen (s : State) : (invalidateD s).unkseen = s.unkseen := rfl
@[simp] theorem invalidateD_unkpos (s : State) : (invalidateD s).unkpos = s.unkpos := rfl
@[simp] theorem invalidateD_povf (s : State) : (invalidateD s).povf = s.povf := rfl
@[simp] theorem invalidateD_strict (s : State) : (invalidateD s).strict = s.strict := rfl
@[simp] theorem invalidateD_ie (s : State) : (invalidateD s).ie = s.ie := rfl
@[simp] theorem invalidateD_lang (s : State) : (invalidateD s).lang = s.lang := rfl
@[simp] theorem invalidateD_err (s : State) : (invalidateD s).err = s.err := rfl
@[simp] theorem invalidateD_errinfo (s : State) : (invalidateD s).errinfo = s.errinfo := rfl
@[simp] theorem invalidateD_evalid (s : State) : (invalidateD s).evalid = s.evalid := rfl
@[simp] theorem invalidateD_ivalid (s : State) : (invalidateD s).ivalid = s.ivalid := rfl
@[simp] theorem invalidateD_dvalid (s : State) : (invalidateD s).dvalid = false := rfl
@[simp] theorem invalidateD_csok (s : State) : (invalidateD s).csok = false := rfl
@[simp] theorem invalidateD_svalid (s : State) : (invalidateD s).svalid = s.svalid := rfl
@[simp] theorem invalidateD_done (s : State) : (invalidateD s).done = s.done := rfl
@[simp] theorem invalidateD_host (s : State) : (invalidateD s).host = s.host := rfl
@[simp] theorem invalidateD_rdata (s : State) : (invalidateD s).rdata = s.rdata := rfl
@[simp] theorem invalidateD_wait (s : State) : (invalidateD s).wait = s.wait := rfl
@[simp] theorem invalidateD_fresh (s : State) : (invalidateD s).fresh = s.fresh := rfl

/-! ## invalidateI: InvalidateI (R52) -/

@[simp] theorem invalidateI_phase (s : State) : (invalidateI s).phase = s.phase := rfl
@[simp] theorem invalidateI_opc (s : State) : (invalidateI s).opc = s.opc := rfl
@[simp] theorem invalidateI_ent (s : State) : (invalidateI s).ent = s.ent := rfl
@[simp] theorem invalidateI_elen (s : State) : (invalidateI s).elen = s.elen := rfl
@[simp] theorem invalidateI_idx (s : State) : (invalidateI s).idx = s.idx := rfl
@[simp] theorem invalidateI_wcnt (s : State) : (invalidateI s).wcnt = s.wcnt := rfl
@[simp] theorem invalidateI_pass (s : State) : (invalidateI s).pass = s.pass := rfl
@[simp] theorem invalidateI_plen (s : State) : (invalidateI s).plen = s.plen := rfl
@[simp] theorem invalidateI_seed (s : State) : (invalidateI s).seed = s.seed := rfl
@[simp] theorem invalidateI_csum (s : State) : (invalidateI s).csum = s.csum := rfl
@[simp] theorem invalidateI_cslen (s : State) : (invalidateI s).cslen = s.cslen := rfl
@[simp] theorem invalidateI_ecs (s : State) : (invalidateI s).ecs = s.ecs := rfl
@[simp] theorem invalidateI_unkseen (s : State) : (invalidateI s).unkseen = s.unkseen := rfl
@[simp] theorem invalidateI_unkpos (s : State) : (invalidateI s).unkpos = s.unkpos := rfl
@[simp] theorem invalidateI_povf (s : State) : (invalidateI s).povf = s.povf := rfl
@[simp] theorem invalidateI_strict (s : State) : (invalidateI s).strict = s.strict := rfl
@[simp] theorem invalidateI_ie (s : State) : (invalidateI s).ie = s.ie := rfl
@[simp] theorem invalidateI_lang (s : State) : (invalidateI s).lang = s.lang := rfl
@[simp] theorem invalidateI_err (s : State) : (invalidateI s).err = s.err := rfl
@[simp] theorem invalidateI_errinfo (s : State) : (invalidateI s).errinfo = s.errinfo := rfl
@[simp] theorem invalidateI_evalid (s : State) : (invalidateI s).evalid = s.evalid := rfl
@[simp] theorem invalidateI_ivalid (s : State) : (invalidateI s).ivalid = false := rfl
@[simp] theorem invalidateI_dvalid (s : State) : (invalidateI s).dvalid = s.dvalid := rfl
@[simp] theorem invalidateI_csok (s : State) : (invalidateI s).csok = s.csok := rfl
@[simp] theorem invalidateI_svalid (s : State) : (invalidateI s).svalid = s.svalid := rfl
@[simp] theorem invalidateI_done (s : State) : (invalidateI s).done = s.done := rfl
@[simp] theorem invalidateI_host (s : State) : (invalidateI s).host = s.host := rfl
@[simp] theorem invalidateI_rdata (s : State) : (invalidateI s).rdata = s.rdata := rfl
@[simp] theorem invalidateI_wait (s : State) : (invalidateI s).wait = s.wait := rfl
@[simp] theorem invalidateI_fresh (s : State) : (invalidateI s).fresh = s.fresh := rfl

/-! ## invalidateE: InvalidateE (R52): ENT and ELEN stay -/

@[simp] theorem invalidateE_phase (s : State) : (invalidateE s).phase = s.phase := rfl
@[simp] theorem invalidateE_opc (s : State) : (invalidateE s).opc = s.opc := rfl
@[simp] theorem invalidateE_ent (s : State) : (invalidateE s).ent = s.ent := rfl
@[simp] theorem invalidateE_elen (s : State) : (invalidateE s).elen = s.elen := rfl
@[simp] theorem invalidateE_idx (s : State) : (invalidateE s).idx = s.idx := rfl
@[simp] theorem invalidateE_wcnt (s : State) : (invalidateE s).wcnt = s.wcnt := rfl
@[simp] theorem invalidateE_pass (s : State) : (invalidateE s).pass = s.pass := rfl
@[simp] theorem invalidateE_plen (s : State) : (invalidateE s).plen = s.plen := rfl
@[simp] theorem invalidateE_seed (s : State) : (invalidateE s).seed = Vector.replicate 64 0 := rfl
@[simp] theorem invalidateE_csum (s : State) : (invalidateE s).csum = 0 := rfl
@[simp] theorem invalidateE_cslen (s : State) : (invalidateE s).cslen = 0 := rfl
@[simp] theorem invalidateE_ecs (s : State) : (invalidateE s).ecs = 0 := rfl
@[simp] theorem invalidateE_unkseen (s : State) : (invalidateE s).unkseen = s.unkseen := rfl
@[simp] theorem invalidateE_unkpos (s : State) : (invalidateE s).unkpos = s.unkpos := rfl
@[simp] theorem invalidateE_povf (s : State) : (invalidateE s).povf = s.povf := rfl
@[simp] theorem invalidateE_strict (s : State) : (invalidateE s).strict = s.strict := rfl
@[simp] theorem invalidateE_ie (s : State) : (invalidateE s).ie = s.ie := rfl
@[simp] theorem invalidateE_lang (s : State) : (invalidateE s).lang = s.lang := rfl
@[simp] theorem invalidateE_err (s : State) : (invalidateE s).err = s.err := rfl
@[simp] theorem invalidateE_errinfo (s : State) : (invalidateE s).errinfo = s.errinfo := rfl
@[simp] theorem invalidateE_evalid (s : State) : (invalidateE s).evalid = false := rfl
@[simp] theorem invalidateE_ivalid (s : State) : (invalidateE s).ivalid = false := rfl
@[simp] theorem invalidateE_dvalid (s : State) : (invalidateE s).dvalid = false := rfl
@[simp] theorem invalidateE_csok (s : State) : (invalidateE s).csok = false := rfl
@[simp] theorem invalidateE_svalid (s : State) : (invalidateE s).svalid = false := rfl
@[simp] theorem invalidateE_done (s : State) : (invalidateE s).done = s.done := rfl
@[simp] theorem invalidateE_host (s : State) : (invalidateE s).host = s.host := rfl
@[simp] theorem invalidateE_rdata (s : State) : (invalidateE s).rdata = s.rdata := rfl
@[simp] theorem invalidateE_wait (s : State) : (invalidateE s).wait = s.wait := rfl
@[simp] theorem invalidateE_fresh (s : State) : (invalidateE s).fresh = s.fresh := rfl

/-! ## finish: normal completion (R220) -/

@[simp] theorem finish_phase (s : State) : (finish s).phase = .idle := rfl
@[simp] theorem finish_opc (s : State) : (finish s).opc = s.opc := rfl
@[simp] theorem finish_ent (s : State) : (finish s).ent = s.ent := rfl
@[simp] theorem finish_elen (s : State) : (finish s).elen = s.elen := rfl
@[simp] theorem finish_idx (s : State) : (finish s).idx = s.idx := rfl
@[simp] theorem finish_wcnt (s : State) : (finish s).wcnt = s.wcnt := rfl
@[simp] theorem finish_pass (s : State) : (finish s).pass = s.pass := rfl
@[simp] theorem finish_plen (s : State) : (finish s).plen = s.plen := rfl
@[simp] theorem finish_seed (s : State) : (finish s).seed = s.seed := rfl
@[simp] theorem finish_csum (s : State) : (finish s).csum = s.csum := rfl
@[simp] theorem finish_cslen (s : State) : (finish s).cslen = s.cslen := rfl
@[simp] theorem finish_ecs (s : State) : (finish s).ecs = s.ecs := rfl
@[simp] theorem finish_unkseen (s : State) : (finish s).unkseen = s.unkseen := rfl
@[simp] theorem finish_unkpos (s : State) : (finish s).unkpos = s.unkpos := rfl
@[simp] theorem finish_povf (s : State) : (finish s).povf = s.povf := rfl
@[simp] theorem finish_strict (s : State) : (finish s).strict = s.strict := rfl
@[simp] theorem finish_ie (s : State) : (finish s).ie = s.ie := rfl
@[simp] theorem finish_lang (s : State) : (finish s).lang = s.lang := rfl
@[simp] theorem finish_err (s : State) : (finish s).err = s.err := rfl
@[simp] theorem finish_errinfo (s : State) : (finish s).errinfo = s.errinfo := rfl
@[simp] theorem finish_evalid (s : State) : (finish s).evalid = s.evalid := rfl
@[simp] theorem finish_ivalid (s : State) : (finish s).ivalid = s.ivalid := rfl
@[simp] theorem finish_dvalid (s : State) : (finish s).dvalid = s.dvalid := rfl
@[simp] theorem finish_csok (s : State) : (finish s).csok = s.csok := rfl
@[simp] theorem finish_svalid (s : State) : (finish s).svalid = s.svalid := rfl
@[simp] theorem finish_done (s : State) : (finish s).done = true := rfl
@[simp] theorem finish_host (s : State) : (finish s).host = s.host := rfl
@[simp] theorem finish_rdata (s : State) : (finish s).rdata = s.rdata := rfl
@[simp] theorem finish_wait (s : State) : (finish s).wait = s.wait := rfl
@[simp] theorem finish_fresh (s : State) : (finish s).fresh = s.fresh := rfl

/-! ## failWith: a recoverable error (R230) -/

@[simp] theorem failWith_phase (e : CommandError) (s : State) : (failWith e s).phase = .idle := rfl
@[simp] theorem failWith_opc (e : CommandError) (s : State) : (failWith e s).opc = s.opc := rfl
@[simp] theorem failWith_ent (e : CommandError) (s : State) : (failWith e s).ent = s.ent := rfl
@[simp] theorem failWith_elen (e : CommandError) (s : State) : (failWith e s).elen = s.elen := rfl
@[simp] theorem failWith_idx (e : CommandError) (s : State) : (failWith e s).idx = s.idx := rfl
@[simp] theorem failWith_wcnt (e : CommandError) (s : State) : (failWith e s).wcnt = s.wcnt := rfl
@[simp] theorem failWith_pass (e : CommandError) (s : State) : (failWith e s).pass = s.pass := rfl
@[simp] theorem failWith_plen (e : CommandError) (s : State) : (failWith e s).plen = s.plen := rfl
@[simp] theorem failWith_seed (e : CommandError) (s : State) : (failWith e s).seed = s.seed := rfl
@[simp] theorem failWith_csum (e : CommandError) (s : State) : (failWith e s).csum = s.csum := rfl
@[simp] theorem failWith_cslen (e : CommandError) (s : State) : (failWith e s).cslen = s.cslen := rfl
@[simp] theorem failWith_ecs (e : CommandError) (s : State) : (failWith e s).ecs = s.ecs := rfl
@[simp] theorem failWith_unkseen (e : CommandError) (s : State) : (failWith e s).unkseen = s.unkseen := rfl
@[simp] theorem failWith_unkpos (e : CommandError) (s : State) : (failWith e s).unkpos = s.unkpos := rfl
@[simp] theorem failWith_povf (e : CommandError) (s : State) : (failWith e s).povf = s.povf := rfl
@[simp] theorem failWith_strict (e : CommandError) (s : State) : (failWith e s).strict = s.strict := rfl
@[simp] theorem failWith_ie (e : CommandError) (s : State) : (failWith e s).ie = s.ie := rfl
@[simp] theorem failWith_lang (e : CommandError) (s : State) : (failWith e s).lang = s.lang := rfl
@[simp] theorem failWith_err (e : CommandError) (s : State) : (failWith e s).err = errCode e := rfl
@[simp] theorem failWith_errinfo (e : CommandError) (s : State) : (failWith e s).errinfo = errLayout e := rfl
@[simp] theorem failWith_evalid (e : CommandError) (s : State) : (failWith e s).evalid = s.evalid := rfl
@[simp] theorem failWith_ivalid (e : CommandError) (s : State) : (failWith e s).ivalid = s.ivalid := rfl
@[simp] theorem failWith_dvalid (e : CommandError) (s : State) : (failWith e s).dvalid = s.dvalid := rfl
@[simp] theorem failWith_csok (e : CommandError) (s : State) : (failWith e s).csok = s.csok := rfl
@[simp] theorem failWith_svalid (e : CommandError) (s : State) : (failWith e s).svalid = s.svalid := rfl
@[simp] theorem failWith_done (e : CommandError) (s : State) : (failWith e s).done = true := rfl
@[simp] theorem failWith_host (e : CommandError) (s : State) : (failWith e s).host = s.host := rfl
@[simp] theorem failWith_rdata (e : CommandError) (s : State) : (failWith e s).rdata = s.rdata := rfl
@[simp] theorem failWith_wait (e : CommandError) (s : State) : (failWith e s).wait = s.wait := rfl
@[simp] theorem failWith_fresh (e : CommandError) (s : State) : (failWith e s).fresh = s.fresh := rfl

/-! ## setChecksum: a valid entropy with its checksum (R131) -/

@[simp] theorem setChecksum_phase (k : Nat × Nat) (s : State) : (setChecksum k s).phase = s.phase := rfl
@[simp] theorem setChecksum_opc (k : Nat × Nat) (s : State) : (setChecksum k s).opc = s.opc := rfl
@[simp] theorem setChecksum_ent (k : Nat × Nat) (s : State) : (setChecksum k s).ent = s.ent := rfl
@[simp] theorem setChecksum_elen (k : Nat × Nat) (s : State) : (setChecksum k s).elen = s.elen := rfl
@[simp] theorem setChecksum_idx (k : Nat × Nat) (s : State) : (setChecksum k s).idx = s.idx := rfl
@[simp] theorem setChecksum_wcnt (k : Nat × Nat) (s : State) : (setChecksum k s).wcnt = s.wcnt := rfl
@[simp] theorem setChecksum_pass (k : Nat × Nat) (s : State) : (setChecksum k s).pass = s.pass := rfl
@[simp] theorem setChecksum_plen (k : Nat × Nat) (s : State) : (setChecksum k s).plen = s.plen := rfl
@[simp] theorem setChecksum_seed (k : Nat × Nat) (s : State) : (setChecksum k s).seed = s.seed := rfl
@[simp] theorem setChecksum_csum (k : Nat × Nat) (s : State) : (setChecksum k s).csum = BitVec.ofNat 8 k.2 := rfl
@[simp] theorem setChecksum_cslen (k : Nat × Nat) (s : State) : (setChecksum k s).cslen = BitVec.ofNat 4 k.1 := rfl
@[simp] theorem setChecksum_ecs (k : Nat × Nat) (s : State) : (setChecksum k s).ecs = s.ecs := rfl
@[simp] theorem setChecksum_unkseen (k : Nat × Nat) (s : State) : (setChecksum k s).unkseen = s.unkseen := rfl
@[simp] theorem setChecksum_unkpos (k : Nat × Nat) (s : State) : (setChecksum k s).unkpos = s.unkpos := rfl
@[simp] theorem setChecksum_povf (k : Nat × Nat) (s : State) : (setChecksum k s).povf = s.povf := rfl
@[simp] theorem setChecksum_strict (k : Nat × Nat) (s : State) : (setChecksum k s).strict = s.strict := rfl
@[simp] theorem setChecksum_ie (k : Nat × Nat) (s : State) : (setChecksum k s).ie = s.ie := rfl
@[simp] theorem setChecksum_lang (k : Nat × Nat) (s : State) : (setChecksum k s).lang = s.lang := rfl
@[simp] theorem setChecksum_err (k : Nat × Nat) (s : State) : (setChecksum k s).err = s.err := rfl
@[simp] theorem setChecksum_errinfo (k : Nat × Nat) (s : State) : (setChecksum k s).errinfo = s.errinfo := rfl
@[simp] theorem setChecksum_evalid (k : Nat × Nat) (s : State) : (setChecksum k s).evalid = true := rfl
@[simp] theorem setChecksum_ivalid (k : Nat × Nat) (s : State) : (setChecksum k s).ivalid = s.ivalid := rfl
@[simp] theorem setChecksum_dvalid (k : Nat × Nat) (s : State) : (setChecksum k s).dvalid = s.dvalid := rfl
@[simp] theorem setChecksum_csok (k : Nat × Nat) (s : State) : (setChecksum k s).csok = s.csok := rfl
@[simp] theorem setChecksum_svalid (k : Nat × Nat) (s : State) : (setChecksum k s).svalid = s.svalid := rfl
@[simp] theorem setChecksum_done (k : Nat × Nat) (s : State) : (setChecksum k s).done = s.done := rfl
@[simp] theorem setChecksum_host (k : Nat × Nat) (s : State) : (setChecksum k s).host = s.host := rfl
@[simp] theorem setChecksum_rdata (k : Nat × Nat) (s : State) : (setChecksum k s).rdata = s.rdata := rfl
@[simp] theorem setChecksum_wait (k : Nat × Nat) (s : State) : (setChecksum k s).wait = s.wait := rfl
@[simp] theorem setChecksum_fresh (k : Nat × Nat) (s : State) : (setChecksum k s).fresh = s.fresh := rfl

/-! ## clearE: group E of CLR (R171) -/

@[simp] theorem clearE_phase (s : State) : (clearE s).phase = s.phase := rfl
@[simp] theorem clearE_opc (s : State) : (clearE s).opc = s.opc := rfl
@[simp] theorem clearE_ent (s : State) : (clearE s).ent = Vector.replicate 32 0 := rfl
@[simp] theorem clearE_elen (s : State) : (clearE s).elen = 0 := rfl
@[simp] theorem clearE_idx (s : State) : (clearE s).idx = s.idx := rfl
@[simp] theorem clearE_wcnt (s : State) : (clearE s).wcnt = s.wcnt := rfl
@[simp] theorem clearE_pass (s : State) : (clearE s).pass = s.pass := rfl
@[simp] theorem clearE_plen (s : State) : (clearE s).plen = s.plen := rfl
@[simp] theorem clearE_seed (s : State) : (clearE s).seed = Vector.replicate 64 0 := rfl
@[simp] theorem clearE_csum (s : State) : (clearE s).csum = 0 := rfl
@[simp] theorem clearE_cslen (s : State) : (clearE s).cslen = 0 := rfl
@[simp] theorem clearE_ecs (s : State) : (clearE s).ecs = 0 := rfl
@[simp] theorem clearE_unkseen (s : State) : (clearE s).unkseen = s.unkseen := rfl
@[simp] theorem clearE_unkpos (s : State) : (clearE s).unkpos = s.unkpos := rfl
@[simp] theorem clearE_povf (s : State) : (clearE s).povf = s.povf := rfl
@[simp] theorem clearE_strict (s : State) : (clearE s).strict = s.strict := rfl
@[simp] theorem clearE_ie (s : State) : (clearE s).ie = s.ie := rfl
@[simp] theorem clearE_lang (s : State) : (clearE s).lang = s.lang := rfl
@[simp] theorem clearE_err (s : State) : (clearE s).err = s.err := rfl
@[simp] theorem clearE_errinfo (s : State) : (clearE s).errinfo = s.errinfo := rfl
@[simp] theorem clearE_evalid (s : State) : (clearE s).evalid = false := rfl
@[simp] theorem clearE_ivalid (s : State) : (clearE s).ivalid = false := rfl
@[simp] theorem clearE_dvalid (s : State) : (clearE s).dvalid = false := rfl
@[simp] theorem clearE_csok (s : State) : (clearE s).csok = false := rfl
@[simp] theorem clearE_svalid (s : State) : (clearE s).svalid = false := rfl
@[simp] theorem clearE_done (s : State) : (clearE s).done = s.done := rfl
@[simp] theorem clearE_host (s : State) : (clearE s).host = s.host := rfl
@[simp] theorem clearE_rdata (s : State) : (clearE s).rdata = s.rdata := rfl
@[simp] theorem clearE_wait (s : State) : (clearE s).wait = s.wait := rfl
@[simp] theorem clearE_fresh (s : State) : (clearE s).fresh = s.fresh := rfl

/-! ## clearI: group I of CLR (R171) -/

@[simp] theorem clearI_phase (s : State) : (clearI s).phase = s.phase := rfl
@[simp] theorem clearI_opc (s : State) : (clearI s).opc = s.opc := rfl
@[simp] theorem clearI_ent (s : State) : (clearI s).ent = s.ent := rfl
@[simp] theorem clearI_elen (s : State) : (clearI s).elen = s.elen := rfl
@[simp] theorem clearI_idx (s : State) : (clearI s).idx = Vector.replicate 24 0 := rfl
@[simp] theorem clearI_wcnt (s : State) : (clearI s).wcnt = 0 := rfl
@[simp] theorem clearI_pass (s : State) : (clearI s).pass = s.pass := rfl
@[simp] theorem clearI_plen (s : State) : (clearI s).plen = s.plen := rfl
@[simp] theorem clearI_seed (s : State) : (clearI s).seed = s.seed := rfl
@[simp] theorem clearI_csum (s : State) : (clearI s).csum = s.csum := rfl
@[simp] theorem clearI_cslen (s : State) : (clearI s).cslen = s.cslen := rfl
@[simp] theorem clearI_ecs (s : State) : (clearI s).ecs = 0 := rfl
@[simp] theorem clearI_unkseen (s : State) : (clearI s).unkseen = false := rfl
@[simp] theorem clearI_unkpos (s : State) : (clearI s).unkpos = 0 := rfl
@[simp] theorem clearI_povf (s : State) : (clearI s).povf = s.povf := rfl
@[simp] theorem clearI_strict (s : State) : (clearI s).strict = s.strict := rfl
@[simp] theorem clearI_ie (s : State) : (clearI s).ie = s.ie := rfl
@[simp] theorem clearI_lang (s : State) : (clearI s).lang = s.lang := rfl
@[simp] theorem clearI_err (s : State) : (clearI s).err = s.err := rfl
@[simp] theorem clearI_errinfo (s : State) : (clearI s).errinfo = s.errinfo := rfl
@[simp] theorem clearI_evalid (s : State) : (clearI s).evalid = s.evalid := rfl
@[simp] theorem clearI_ivalid (s : State) : (clearI s).ivalid = false := rfl
@[simp] theorem clearI_dvalid (s : State) : (clearI s).dvalid = false := rfl
@[simp] theorem clearI_csok (s : State) : (clearI s).csok = false := rfl
@[simp] theorem clearI_svalid (s : State) : (clearI s).svalid = s.svalid := rfl
@[simp] theorem clearI_done (s : State) : (clearI s).done = s.done := rfl
@[simp] theorem clearI_host (s : State) : (clearI s).host = s.host := rfl
@[simp] theorem clearI_rdata (s : State) : (clearI s).rdata = s.rdata := rfl
@[simp] theorem clearI_wait (s : State) : (clearI s).wait = s.wait := rfl
@[simp] theorem clearI_fresh (s : State) : (clearI s).fresh = s.fresh := rfl

/-! ## clearP: group P of CLR (R171) -/

@[simp] theorem clearP_phase (s : State) : (clearP s).phase = s.phase := rfl
@[simp] theorem clearP_opc (s : State) : (clearP s).opc = s.opc := rfl
@[simp] theorem clearP_ent (s : State) : (clearP s).ent = s.ent := rfl
@[simp] theorem clearP_elen (s : State) : (clearP s).elen = s.elen := rfl
@[simp] theorem clearP_idx (s : State) : (clearP s).idx = s.idx := rfl
@[simp] theorem clearP_wcnt (s : State) : (clearP s).wcnt = s.wcnt := rfl
@[simp] theorem clearP_pass (s : State) : (clearP s).pass = List.replicate (passMax s) 0 := rfl
@[simp] theorem clearP_plen (s : State) : (clearP s).plen = 0 := rfl
@[simp] theorem clearP_seed (s : State) : (clearP s).seed = Vector.replicate 64 0 := rfl
@[simp] theorem clearP_csum (s : State) : (clearP s).csum = s.csum := rfl
@[simp] theorem clearP_cslen (s : State) : (clearP s).cslen = s.cslen := rfl
@[simp] theorem clearP_ecs (s : State) : (clearP s).ecs = s.ecs := rfl
@[simp] theorem clearP_unkseen (s : State) : (clearP s).unkseen = s.unkseen := rfl
@[simp] theorem clearP_unkpos (s : State) : (clearP s).unkpos = s.unkpos := rfl
@[simp] theorem clearP_povf (s : State) : (clearP s).povf = false := rfl
@[simp] theorem clearP_strict (s : State) : (clearP s).strict = s.strict := rfl
@[simp] theorem clearP_ie (s : State) : (clearP s).ie = s.ie := rfl
@[simp] theorem clearP_lang (s : State) : (clearP s).lang = s.lang := rfl
@[simp] theorem clearP_err (s : State) : (clearP s).err = s.err := rfl
@[simp] theorem clearP_errinfo (s : State) : (clearP s).errinfo = s.errinfo := rfl
@[simp] theorem clearP_evalid (s : State) : (clearP s).evalid = s.evalid := rfl
@[simp] theorem clearP_ivalid (s : State) : (clearP s).ivalid = s.ivalid := rfl
@[simp] theorem clearP_dvalid (s : State) : (clearP s).dvalid = s.dvalid := rfl
@[simp] theorem clearP_csok (s : State) : (clearP s).csok = s.csok := rfl
@[simp] theorem clearP_svalid (s : State) : (clearP s).svalid = false := rfl
@[simp] theorem clearP_done (s : State) : (clearP s).done = s.done := rfl
@[simp] theorem clearP_host (s : State) : (clearP s).host = s.host := rfl
@[simp] theorem clearP_rdata (s : State) : (clearP s).rdata = s.rdata := rfl
@[simp] theorem clearP_wait (s : State) : (clearP s).wait = s.wait := rfl
@[simp] theorem clearP_fresh (s : State) : (clearP s).fresh = s.fresh := rfl

/-! ## enterFault: the fatal error (R236) -/

@[simp] theorem enterFault_phase (e : CommandError) (s : State) : (enterFault e s).phase = .fault := rfl
@[simp] theorem enterFault_opc (e : CommandError) (s : State) : (enterFault e s).opc = 0 := rfl
@[simp] theorem enterFault_ent (e : CommandError) (s : State) : (enterFault e s).ent = Vector.replicate 32 0 := rfl
@[simp] theorem enterFault_elen (e : CommandError) (s : State) : (enterFault e s).elen = 0 := rfl
@[simp] theorem enterFault_idx (e : CommandError) (s : State) : (enterFault e s).idx = Vector.replicate 24 0 := rfl
@[simp] theorem enterFault_wcnt (e : CommandError) (s : State) : (enterFault e s).wcnt = 0 := rfl
@[simp] theorem enterFault_pass (e : CommandError) (s : State) : (enterFault e s).pass = List.replicate (passMax s) 0 := rfl
@[simp] theorem enterFault_plen (e : CommandError) (s : State) : (enterFault e s).plen = 0 := rfl
@[simp] theorem enterFault_seed (e : CommandError) (s : State) : (enterFault e s).seed = Vector.replicate 64 0 := rfl
@[simp] theorem enterFault_csum (e : CommandError) (s : State) : (enterFault e s).csum = 0 := rfl
@[simp] theorem enterFault_cslen (e : CommandError) (s : State) : (enterFault e s).cslen = 0 := rfl
@[simp] theorem enterFault_ecs (e : CommandError) (s : State) : (enterFault e s).ecs = 0 := rfl
@[simp] theorem enterFault_unkseen (e : CommandError) (s : State) : (enterFault e s).unkseen = false := rfl
@[simp] theorem enterFault_unkpos (e : CommandError) (s : State) : (enterFault e s).unkpos = 0 := rfl
@[simp] theorem enterFault_povf (e : CommandError) (s : State) : (enterFault e s).povf = false := rfl
@[simp] theorem enterFault_strict (e : CommandError) (s : State) : (enterFault e s).strict = s.strict := rfl
@[simp] theorem enterFault_ie (e : CommandError) (s : State) : (enterFault e s).ie = s.ie := rfl
@[simp] theorem enterFault_lang (e : CommandError) (s : State) : (enterFault e s).lang = s.lang := rfl
@[simp] theorem enterFault_err (e : CommandError) (s : State) : (enterFault e s).err = errCode e := rfl
@[simp] theorem enterFault_errinfo (e : CommandError) (s : State) : (enterFault e s).errinfo = errLayout e := rfl
@[simp] theorem enterFault_evalid (e : CommandError) (s : State) : (enterFault e s).evalid = false := rfl
@[simp] theorem enterFault_ivalid (e : CommandError) (s : State) : (enterFault e s).ivalid = false := rfl
@[simp] theorem enterFault_dvalid (e : CommandError) (s : State) : (enterFault e s).dvalid = false := rfl
@[simp] theorem enterFault_csok (e : CommandError) (s : State) : (enterFault e s).csok = false := rfl
@[simp] theorem enterFault_svalid (e : CommandError) (s : State) : (enterFault e s).svalid = false := rfl
@[simp] theorem enterFault_done (e : CommandError) (s : State) : (enterFault e s).done = true := rfl
@[simp] theorem enterFault_host (e : CommandError) (s : State) : (enterFault e s).host = s.host := rfl
@[simp] theorem enterFault_rdata (e : CommandError) (s : State) : (enterFault e s).rdata = s.rdata := rfl
@[simp] theorem enterFault_wait (e : CommandError) (s : State) : (enterFault e s).wait = s.wait := rfl
@[simp] theorem enterFault_fresh (e : CommandError) (s : State) : (enterFault e s).fresh = s.fresh := rfl

/-! ## resetBlock: an edge with `rst` = 1 (R250) -/

@[simp] theorem resetBlock_phase (s : State) : (resetBlock s).phase = .idle := rfl
@[simp] theorem resetBlock_opc (s : State) : (resetBlock s).opc = 0 := rfl
@[simp] theorem resetBlock_ent (s : State) : (resetBlock s).ent = Vector.replicate 32 0 := rfl
@[simp] theorem resetBlock_elen (s : State) : (resetBlock s).elen = 0 := rfl
@[simp] theorem resetBlock_idx (s : State) : (resetBlock s).idx = Vector.replicate 24 0 := rfl
@[simp] theorem resetBlock_wcnt (s : State) : (resetBlock s).wcnt = 0 := rfl
@[simp] theorem resetBlock_pass (s : State) : (resetBlock s).pass = List.replicate (passMax s) 0 := rfl
@[simp] theorem resetBlock_plen (s : State) : (resetBlock s).plen = 0 := rfl
@[simp] theorem resetBlock_seed (s : State) : (resetBlock s).seed = Vector.replicate 64 0 := rfl
@[simp] theorem resetBlock_csum (s : State) : (resetBlock s).csum = 0 := rfl
@[simp] theorem resetBlock_cslen (s : State) : (resetBlock s).cslen = 0 := rfl
@[simp] theorem resetBlock_ecs (s : State) : (resetBlock s).ecs = 0 := rfl
@[simp] theorem resetBlock_unkseen (s : State) : (resetBlock s).unkseen = false := rfl
@[simp] theorem resetBlock_unkpos (s : State) : (resetBlock s).unkpos = 0 := rfl
@[simp] theorem resetBlock_povf (s : State) : (resetBlock s).povf = false := rfl
@[simp] theorem resetBlock_strict (s : State) : (resetBlock s).strict = false := rfl
@[simp] theorem resetBlock_ie (s : State) : (resetBlock s).ie = false := rfl
@[simp] theorem resetBlock_lang (s : State) : (resetBlock s).lang = 0 := rfl
@[simp] theorem resetBlock_err (s : State) : (resetBlock s).err = 0 := rfl
@[simp] theorem resetBlock_errinfo (s : State) : (resetBlock s).errinfo = 0 := rfl
@[simp] theorem resetBlock_evalid (s : State) : (resetBlock s).evalid = false := rfl
@[simp] theorem resetBlock_ivalid (s : State) : (resetBlock s).ivalid = false := rfl
@[simp] theorem resetBlock_dvalid (s : State) : (resetBlock s).dvalid = false := rfl
@[simp] theorem resetBlock_csok (s : State) : (resetBlock s).csok = false := rfl
@[simp] theorem resetBlock_svalid (s : State) : (resetBlock s).svalid = false := rfl
@[simp] theorem resetBlock_done (s : State) : (resetBlock s).done = false := rfl
@[simp] theorem resetBlock_host (s : State) : (resetBlock s).host = s.host := rfl
@[simp] theorem resetBlock_rdata (s : State) : (resetBlock s).rdata = s.rdata := rfl
@[simp] theorem resetBlock_wait (s : State) : (resetBlock s).wait = none := rfl
@[simp] theorem resetBlock_fresh (s : State) : (resetBlock s).fresh = s.fresh + 1 := rfl

/-! ## PASS_MAX (R9): the size of PASS stays -/

@[simp] theorem passMax_enterFault (e : CommandError) (s : State) : passMax (enterFault e s) = passMax s := by simp [passMax]

@[simp] theorem passMax_resetBlock (s : State) : passMax (resetBlock s) = passMax s := by simp [passMax]

@[simp] theorem passMax_clearP (s : State) : passMax (clearP s) = passMax s := by simp [passMax]

end Sys2Proof.Machine
end

