-- ==== Sys2Proof/Laws/Ops.lean ====
section
/-! SUPPORT. What each shared operation of Machine/Ops.lean can do, said once: proofs cite these and do not unfold the
operation. -/

namespace Sys2Proof.Machine

/-! ## Who may act -/

/-- In IDLE a host write has its effect (R72). -/
theorem hostWrite_idle {s : State} (k : State → State) (h : s.phase = .idle) : hostWrite s k = .next (k s) := by
  simp [hostWrite, h]

/-- In BUSY and FAULT it has none (R74, R77). -/
theorem hostWrite_not_idle {s : State} (k : State → State) (h : s.phase ≠ .idle) : hostWrite s k = .next s := by
  simp [hostWrite, h]

/-- In BUSY a command's completion has its effect (R20). -/
theorem atCompletion_busy {s : State} (k : State → State) (h : s.phase = .busy) : atCompletion s k = .next (k s) := by
  simp [atCompletion, h]

/-- In IDLE and FAULT no command is in flight (R20). -/
theorem atCompletion_not_busy {s : State} (k : State → State) (h : s.phase ≠ .busy) : atCompletion s k = .next s := by
  simp [atCompletion, h]

/-- Whatever a host write gives, it is a next state: the effect or nothing. -/
theorem hostWrite_cases (s : State) (k : State → State) :
    (s.phase = .idle ∧ hostWrite s k = .next (k s)) ∨ (s.phase ≠ .idle ∧ hostWrite s k = .next s) := by
  by_cases h : s.phase = .idle
  · exact .inl ⟨h, hostWrite_idle k h⟩
  · exact .inr ⟨h, hostWrite_not_idle k h⟩

/-- The same for a completion. -/
theorem atCompletion_cases (s : State) (k : State → State) :
    (s.phase = .busy ∧ atCompletion s k = .next (k s)) ∨ (s.phase ≠ .busy ∧ atCompletion s k = .next s) := by
  by_cases h : s.phase = .busy
  · exact .inl ⟨h, atCompletion_busy k h⟩
  · exact .inr ⟨h, atCompletion_not_busy k h⟩

/-! ## Errors -/

/-- `raise` of a recoverable error is failWith (R230). -/
theorem raise_recoverable {e : CommandError} (s : State) (h : ∀ n m, e ≠ .internalInvariantViolation n m) :
    raise e s = failWith e s := by
  cases e
  case internalInvariantViolation n m => exact absurd rfl (h n m)
  all_goals rfl

/-- `raise` of the fatal error is enterFault (R236). -/
theorem raise_fatal (n m : Byte) (s : State) :
    raise (.internalInvariantViolation n m) s = enterFault (.internalInvariantViolation n m) s := rfl

/-- Every error code is 1 to 8 (R231). -/
theorem errCode_range (e : CommandError) : 1 ≤ (errCode e).toNat ∧ (errCode e).toNat ≤ 8 := by cases e <;> simp [errCode]

/-- Code 5 is the fatal error's and no other's (R231). -/
theorem errCode_eq_five_iff (e : CommandError) : errCode e = 5 ↔ ∃ n m, e = .internalInvariantViolation n m := by
  cases e <;> simp [errCode]

/-! ## Acceptance (R116) -/

/-- Acceptance of a legal word: the latch, the command's invalidations, and the wait drawn for it. -/
theorem accept_ok {w : CmdWord} {i : Instr} (h : decodeCmd w = .ok i) (s : State) :
    ∃ k, accept w s =
      { acceptInvalidate i { s with opc := w, phase := .busy, err := 0, errinfo := 0, done := false, fresh := s.fresh + 1 }
        with wait := k } := by
  unfold accept
  rw [h]
  exact ⟨_, rfl⟩

/-- Acceptance of an illegal word: the latch alone (R173). -/
theorem accept_error {w : CmdWord} {r : Reject} (h : decodeCmd w = .error r) (s : State) :
    accept w s =
      { s with opc := w, phase := .busy, err := 0, errinfo := 0, done := false, fresh := s.fresh + 1
               wait := some (Config.tBusy s.fresh) } := by
  unfold accept
  rw [h]
  rfl

/-! ## Counters and register files -/

theorem toNat_satInc (c : Byte) : (satInc c).toNat = min (c.toNat + 1) 255 := by
  revert c
  decide +kernel

/-- A write to one entry of a register file leaves every other entry alone. -/
theorem getD_setIfInBounds_ne {w n : Nat} (v : Vector (BitVec w) n) (k j : Nat) (b : BitVec w) (h : j ≠ k) :
    (v.setIfInBounds k b).getD j 0 = v.getD j 0 := by
  rw [getD_eq_toList, getD_eq_toList]
  simp [Ne.symm h, List.getD]

/-- The entry written reads as the value written. -/
theorem getD_setIfInBounds_eq {w n : Nat} (v : Vector (BitVec w) n) (k : Nat) (b : BitVec w) (h : k < n) :
    (v.setIfInBounds k b).getD k 0 = b := by
  rw [getD_eq_toList]
  simp [List.getD, h]

/-! ## Views -/

/-- CTRL as a number (R38). -/
theorem ctrlWord_eq (s : State) : ctrlWord s = BitVec.ofNat 16 (s.strict.toNat + 2 * s.ie.toNat) := by
  unfold ctrlWord
  cases s.ie <;> cases s.strict <;> rfl

/-- A read in BUSY (R75). -/
theorem regRead_busy {s : State} (rn : RegNum) (h : s.phase = .busy) :
    regRead s rn = if alwaysReadable rn then regValue s rn else 0 := by simp [regRead, h]

/-- A read in FAULT (R77). -/
theorem regRead_fault {s : State} (rn : RegNum) (h : s.phase = .fault) :
    regRead s rn = if alwaysReadable rn ∨ rn = 0x004 ∨ rn = 0x005 then regValue s rn else 0 := by simp [regRead, h]

/-- A read in IDLE (R71). -/
theorem regRead_idle {s : State} (rn : RegNum) (h : s.phase = .idle) : regRead s rn = regValue s rn := by simp [regRead, h]

/-! ## Unpack -/

/-- What Unpack gives: the sizes of R84, and an embedded checksum that fits in its bits. -/
theorem unpack_sizes {ns : List Idx} {u : Unpacked} (h : unpack ns = some u) :
    ns.length ∈ [12, 15, 18, 21, 24] ∧ u.ent.length = 4 * ns.length / 3 ∧ u.cs = ns.length / 3 ∧ u.x < 2 ^ (ns.length / 3) := by
  unfold unpack at h
  split at h
  · cases h
  rename_i t ht
  obtain ⟨hm, -, hcs, -⟩ := tripleOfMs_eq_some ht
  have hm' := hm
  simp only [List.mem_cons, List.not_mem_nil, or_false] at hm'
  cases h
  refine ⟨hm, ?_, hcs, ?_⟩
  · simp only [List.length_map, List.length_range, hcs]
    omega
  · have hl := length_slice (B := indexBits ns) (i := 8 * ((11 * ns.length - t.cs) / 8)) (n := t.cs)
      (by rw [length_indexBits, hcs]; omega)
    have := uint_lt (slice (indexBits ns) (8 * ((11 * ns.length - t.cs) / 8)) t.cs)
    rw [hl] at this
    exact lt_of_lt_of_eq this (congrArg (2 ^ ·) hcs)

/-- The same for the indices held. -/
theorem unpackHeld_sizes {s : State} {u : Unpacked} (h : unpackHeld s = some u) :
    s.wcnt.toNat ∈ [12, 15, 18, 21, 24] ∧ u.ent.length = 4 * s.wcnt.toNat / 3 ∧ u.cs = s.wcnt.toNat / 3
      ∧ u.x < 2 ^ (s.wcnt.toNat / 3) := by
  unfold unpackHeld at h
  split at h
  · cases h
  rename_i t ht
  have hm := (tripleOfMs_eq_some ht).1
  have hlen : (indicesOf s).length = s.wcnt.toNat := by
    rw [length_indicesOf]
    simp only [List.mem_cons, List.not_mem_nil, or_false] at hm
    omega
  have hu := unpack_sizes h
  rwa [hlen] at hu

/-- The indices held can be unpacked exactly when WCNT is a legal word count (R145). -/
theorem unpackHeld_isSome_iff (s : State) : (unpackHeld s).isSome = true ↔ s.wcnt.toNat ∈ [12, 15, 18, 21, 24] := by
  constructor
  · intro h
    obtain ⟨u, hu⟩ := Option.isSome_iff_exists.mp h
    exact (unpackHeld_sizes hu).1
  · intro h
    have hlen : (indicesOf s).length = s.wcnt.toNat := by
      rw [length_indicesOf]
      simp only [List.mem_cons, List.not_mem_nil, or_false] at h
      omega
    simp [unpackHeld, unpack, hlen, tripleOfMs_of_mem h]

/-! ## Which kind of instruction a word names -/

/-- A command word names a command. -/
theorem decodeCmd_ok_cases {w : CmdWord} {i : Instr} (h : decodeCmd w = .ok i) :
    i = .nop ∨ i = .loade ∨ i = .rande ∨ i = .encode ∨ i = .decode ∨ i = .verify ∨ i = .seed ∨ i = .clr (cmdM w) := by
  unfold decodeCmd at h
  split_ifs at h <;> cases h <;> simp

/-- A transaction names a host transaction. -/
theorem decodeBus_ok_cases {b : BusWord} {i : Instr} (h : decodeBus b = .ok i) :
    (∃ ie st, i = .wrctrl ie st) ∨ (∃ w, i = .cmdwr w) ∨ (∃ a, i = .ack a) ∨ (∃ c, i = .wrlang c) ∨ (∃ x, i = .epush x)
      ∨ (∃ u n, i = .ipush u n) ∨ (∃ x, i = .ppush x) ∨ ∃ rn, i = .rd rn := by
  unfold decodeBus decodeWrite at h
  split_ifs at h <;> cases h <;> simp

end Sys2Proof.Machine
end

