-- ==== Sys2Proof/Laws/Step.lean ====
section
/-! SUPPORT. What a step can do: it is the reset edge or the host's part followed, in BUSY, by the sequencer's; and what the host's
part can change outside IDLE. -/

namespace Sys2Proof.Machine

/-- An edge with `rst` = 1 (R250). -/
theorem step_reset {s : State} {b : Option BusWord} {rest : List HostCycle} (h : s.host = .reset b :: rest) :
    step s = .next (resetEdge b { s with host := rest }) := by simp [step, clockCycle, h]

/-- A cycle without reset: the host's part, then, in BUSY, the sequencer's. -/
theorem step_of_not_reset {s : State} (h : ∀ b rest, s.host ≠ .reset b :: rest) :
    step s = andThen (hostPart s) (if s.phase = .busy then sequencerPart else .next) := by
  unfold step clockCycle
  split
  · rename_i heq
    exact absurd heq (h _ _)
  · rfl

/-- A write outside IDLE is dropped, whatever the register number (R74, R77). -/
theorem hostAccess_write_not_idle {b : BusWord} {s : State} (hb : busWe b = true) (hs : s.phase ≠ .idle) :
    hostAccess b s = .next s := by
  unfold hostAccess
  split
  · rename_i i hi
    rcases decodeBus_ok_cases hi with ⟨_, _, rfl⟩ | ⟨_, rfl⟩ | ⟨_, rfl⟩ | ⟨_, rfl⟩ | ⟨_, rfl⟩ | ⟨_, _, rfl⟩ | ⟨_, rfl⟩ | ⟨rn, rfl⟩
    case inr.inr.inr.inr.inr.inr.inr =>
      have : decodeWrite (busRn b) (busData b) = .ok (.rd rn) := by rw [← decodeBus_write b hb]; exact hi
      unfold decodeWrite at this
      split_ifs at this
      all_goals cases this
    all_goals
      simp [exec, execWrctrl, execCmdwr, execAck, execWrlang, execEpush, execIpush, execPpush, hostWrite_not_idle _ hs]
  · rfl

/-- Outside IDLE an access changes at most the value the host holds of `h_rdata`. -/
theorem hostAccess_not_idle {s : State} (b : BusWord) (hs : s.phase ≠ .idle) :
    ∃ v, hostAccess b s = .next { s with rdata := v } := by
  cases hb : busWe b
  · refine ⟨regRead s (busRn b), ?_⟩
    simp [hostAccess, decode, decodeBus_read b hb, exec, execRd]
  · exact ⟨s.rdata, hostAccess_write_not_idle hb hs⟩

/-- Outside IDLE the host's part of a cycle changes at most the host's own two fields. -/
theorem hostPart_not_idle {s : State} (hs : s.phase ≠ .idle) :
    ∃ v h, hostPart s = .next { s with rdata := v, host := h } ∧ ∀ c ∈ h, c ∈ s.host := by
  unfold hostPart
  split
  · exact ⟨s.rdata, s.host, rfl, fun _ h => h⟩
  · exact ⟨s.rdata, _, rfl, by simp_all⟩
  · rename_i b rest heq
    obtain ⟨v, hv⟩ := hostAccess_not_idle (s := { s with host := rest }) b hs
    exact ⟨v, rest, by rw [hv], by simp_all⟩
  · rename_i rest heq
    simp only [pollStatus, exec, execRd, andThen]
    split
    · exact ⟨_, s.host, rfl, fun _ h => h⟩
    · exact ⟨_, rest, rfl, by simp_all⟩
  · exact ⟨s.rdata, _, rfl, by simp_all⟩

/-- One step of a run. -/
theorem run_succ {s t : State} (h : step s = .next t) (n : Nat) :
    Sys2Proof.core.run (n + 1) s = Sys2Proof.core.run n t := by
  have h' : Sys2Proof.core.step s = .next t := h
  simp only [Host.Core.run, h']

/-- In BUSY, with nothing for the host to do, a step is the sequencer's part. -/
theorem step_busy_host_done {s : State} (hb : s.phase = .busy) (hh : s.host = []) : step s = sequencerPart s := by
  rw [step_of_not_reset (by simp [hh])]
  simp [hostPart, hh, hb, andThen]

/-- The sequencer's part when the completion falls due, while it waits, and when an oracle never answers (R24, R262). -/
theorem sequencerPart_due {s : State} (h : s.wait = some 0) : sequencerPart s = completeLatched s := by
  unfold sequencerPart
  rw [h]

theorem sequencerPart_waits {s : State} {k : Nat} (h : s.wait = some (k + 1)) :
    sequencerPart s = .next { s with wait := some k } := by
  unfold sequencerPart
  rw [h]

theorem sequencerPart_hangs {s : State} (h : s.wait = none) : sequencerPart s = .next s := by
  unfold sequencerPart
  rw [h]

/-- The completion step of the latched command, in BUSY: the command OPC names, or IllegalCommand (R24, R173). -/
theorem completeLatched_ok {s : State} {i : Instr} (h : decodeCmd s.opc = .ok i) : completeLatched s = exec i s := by
  simp [completeLatched, decode, h]

/-- A completion leaves the host's cycles and the value it holds of `h_rdata` as they were. -/
theorem completeLatched_host {s t : State} (h : completeLatched s = .next t) : t.host = s.host ∧ t.rdata = s.rdata := by
  have done : ∀ k : State → State, (k s).host = s.host ∧ (k s).rdata = s.rdata → atCompletion s k = .next t →
      t.host = s.host ∧ t.rdata = s.rdata := by
    intro k hk h
    unfold atCompletion at h
    cases h
    split
    · exact hk
    · exact ⟨rfl, rfl⟩
  have raised : ∀ e s, (raise e s).host = s.host ∧ (raise e s).rdata = s.rdata := by
    intro e s
    cases e <;> exact ⟨rfl, rfl⟩
  unfold completeLatched at h
  split at h
  · rename_i i hi
    rcases decodeCmd_ok_cases hi with rfl | rfl | rfl | rfl | rfl | rfl | rfl | rfl
    · exact done _ ⟨rfl, rfl⟩ h
    · refine done _ ?_ h
      unfold Sys2Proof.Machine.loade
      split
      exacts [⟨rfl, rfl⟩, raised _ _]
    · exact done (fun s => Sys2Proof.Machine.rande Config.sha256 (Config.rngDraw s.fresh) { s with fresh := s.fresh + 1 }) ⟨rfl, rfl⟩ h
    · refine done _ ?_ h
      unfold encodeHeld
      split_ifs
      exacts [raised _ _, raised _ _, ⟨rfl, rfl⟩]
    · refine done _ ?_ h
      unfold decodeHeld
      split
      · exact raised _ _
      · split
        · simp only [strip]
          split
          exacts [raised _ _, ⟨rfl, rfl⟩]
        · exact raised _ _
    · refine done _ ?_ h
      unfold verifyHeld
      split_ifs
      exacts [raised _ _, raised _ _, ⟨rfl, rfl⟩]
    · refine done _ ?_ h
      unfold deriveSeed
      split_ifs
      exacts [raised _ _, raised _ _, ⟨rfl, rfl⟩]
    · refine done (fun s => finish (clearGroups (cmdM s.opc) s)) ?_ h
      simp only [clearGroups]
      split_ifs <;> exact ⟨rfl, rfl⟩
  · exact done _ (raised _ _) h

/-- The sequencer's part leaves them too. -/
theorem sequencerPart_host {s t : State} (h : sequencerPart s = .next t) : t.host = s.host ∧ t.rdata = s.rdata := by
  unfold sequencerPart at h
  split at h
  · cases h
    exact ⟨rfl, rfl⟩
  · exact completeLatched_host h
  · cases h
    exact ⟨rfl, rfl⟩

theorem completeLatched_error {s : State} {r : Reject} (h : decodeCmd s.opc = .error r) (hb : s.phase = .busy) :
    completeLatched s = .next (failWith (.illegalCommand s.opc) s) := by
  simp [completeLatched, decode, h, completeIllegal, atCompletion_busy _ hb, raise]

end Sys2Proof.Machine
end

