-- ==== Sys2Proof/Laws/Host.lean ====
section
/-! SUPPORT. Laws of the host's side: joining and splitting words, the language codes, and what a cycle that ends in BUSY says of
what the host presented and saw. -/

namespace Sys2Proof.Machine

/-! ## Languages and sentences -/

theorem languageOfCode_languageCode (g : Language) : languageOfCode (languageCode g) = some g := by cases g <;> rfl

/-- A joined sentence in the form SplitterOk speaks of. -/
theorem joinWords_cons (sep : Char) (w : WordText) (ws : List WordText) :
    joinWords sep (w :: ws) = w ++ (ws.map fun v => (sep, v)).flatMap fun p => p.1 :: p.2 := by
  induction ws generalizing w with
  | nil => simp [joinWords]
  | cons v ws ih => rw [joinWords, ih]; simp

/-- Splitting undoes joining, for words without white space and with either separator (R208). -/
theorem SplitterOk.split_joinWords {isSpace : Char → Bool} {split : List Char → List WordText} (h : SplitterOk isSpace split)
    (g : Language) (ws : List WordText) (hw : ∀ w ∈ ws, w ≠ [] ∧ ∀ c ∈ w, isSpace c = false) :
    split (joinWords (separatorOf g) ws) = ws := by
  have hsep : isSpace (separatorOf g) = true := by cases g <;> first | exact h.space | exact h.ideographicSpace
  have hsnd : ∀ vs : List WordText, (vs.map fun v => (separatorOf g, v)).map Prod.snd = vs := fun vs => by simp
  cases ws with
  | nil => exact h.empty
  | cons w ws =>
    rw [joinWords_cons, h.splits w _ (by rwa [hsnd]) (by simp [hsep]), hsnd]

/-! ## The host and BUSY -/

/-- STATUS bit 1 is BUSY (R40). -/
theorem statusWord_busy (s : State) : (statusWord s).getLsbD 1 = decide (s.phase = .busy) := by
  simp only [statusWord, BitVec.getLsbD_append]
  simp [busyFlag]

/-- STATUS reads true in every phase (R71, R75, R77). -/
theorem regRead_status (s : State) : regRead s 0x003 = statusWord s := by
  cases h : s.phase <;> simp [regRead, h, alwaysReadable, regValue]

/-- The validity flags in STATUS (R40): the bits by which a host checks what it reads. -/
theorem statusWord_validity (s : State) :
    (statusWord s).getLsbD 4 = s.evalid ∧ (statusWord s).getLsbD 5 = s.ivalid ∧ (statusWord s).getLsbD 6 = s.dvalid
      ∧ (statusWord s).getLsbD 7 = s.csok ∧ (statusWord s).getLsbD 8 = s.svalid := by
  simp only [statusWord, BitVec.getLsbD_append]
  simp

/-- A step that performs a read returns what RegRead gives in the state before the edge, in every phase (R70, R118). -/
theorem step_read {s t : State} {rn : RegNum} {rest : List HostCycle} (hh : s.host = hostRd rn :: rest) (h : step s = .next t) :
    t.rdata = regRead s rn ∧ t.host = rest := by
  have hp : hostPart s = .next { s with host := rest, rdata := regRead s rn } := by
    have hd : decode (.bus (busWord false rn 0)) = .ok (.rd rn) := by
      simp only [decode, decodeBus_read _ (busWe_busWord false rn 0), busRn_busWord]
    simp only [hostPart, hh, hostRd, hostAccess, hd, exec, execRd]
    rfl
  rw [step_of_not_reset (by simp [hh, hostRd]), hp] at h
  simp only [andThen] at h
  split at h
  · exact (sequencerPart_host h).symm
  · cases h
    exact ⟨rfl, rfl⟩

/-- An `expect` line holds exactly when its statement does in the state its read sees. -/
theorem step_expect {s t : State} {rn : RegNum} {rest : List HostCycle} (v : Half) (hh : s.host = hostRd rn :: rest)
    (h : step s = .next t) : t.rdata = v ↔ Expect s rn v := by rw [(step_read hh h).1, Expect]

/-- A host that is held back keeps its duty all the more when it is not. -/
theorem holdsBack_mono {starts ends : Seen → Bool} {barred : HostCycle → Bool} {p q : Bool} (hpq : p = true → q = true)
    (os : List Seen) (h : holdsBack starts ends barred q os = true) : holdsBack starts ends barred p os = true := by
  induction os generalizing p q with
  | nil => rfl
  | cons o os ih =>
    simp only [holdsBack, Bool.and_eq_true] at h ⊢
    refine ⟨?_, ih ?_ h.2⟩
    · cases p <;> cases q <;> simp_all
    · cases p <;> cases q <;> simp_all [heldAfter]

/-- A program that waits when a command may be in flight also waits when none is. -/
theorem waitsForCommands_mono {p q : Bool} (hpq : p = true → q = true) (cs : List HostCycle)
    (h : waitsForCommands q cs = true) : waitsForCommands p cs = true := by
  induction cs generalizing p q with
  | nil => rfl
  | cons c cs ih =>
    simp only [waitsForCommands, Bool.and_eq_true] at h ⊢
    refine ⟨?_, ih ?_ h.2⟩
    · cases p <;> cases q <;> simp_all
    · cases p <;> cases q <;> simp_all

/-- One cycle of a run, as the host sees it. -/
theorem observed_succ {s t : State} (h : step s = .next t) (n : Nat) :
    observed (n + 1) s = ⟨presented s, t.rdata⟩ :: observed n t := by rw [observed, h]

end Sys2Proof.Machine
end

