-- ==== Sys2Proof/Laws/Invariant.lean ====
section
/-! SUPPORT. The invariants of 10_state.md R53 and the shared operations: the model's own fields do not matter to them, and the
invalidation macros (R52), normal completion (R220) and recoverable errors (R230) keep them. -/

namespace Sys2Proof.Machine

/-- The host's and the model's own fields are in no clause. -/
theorem stateInv_host_fields {s : State} (h : StateInv s) (ho r w f) :
    StateInv { s with host := ho, rdata := r, wait := w, fresh := f } := by
  constructor
  · exact h.entropyValid
  · exact h.entropyInvalid
  · exact h.stripWithoutEntropy
  · exact h.entTail
  · exact h.idxTail
  · exact h.indicesValid
  · exact h.stripValid
  · exact h.stripInvalid
  · exact h.seedValid
  · exact h.seedInvalid
  · exact h.passTail
  · exact h.passSize
  · exact h.plenBound
  · exact h.overflowFull
  · exact h.unknownRecord
  · exact h.errorDetail
  · exact h.errorCode
  · exact h.fatalCode
  · exact h.langCode
  · exact h.inFlight
  · exact h.acceptedConstructor
  · exact h.acceptedEncode
  · exact h.acceptedSeed

/-- STRICT and IE are in no clause; LANG must hold a legal code (R43). -/
theorem stateInv_control {s : State} (h : StateInv s) (st ie : Bool) (l : BitVec 4) (hl : l.toNat ≤ 9) :
    StateInv { s with strict := st, ie := ie, lang := l } := by
  constructor
  · exact h.entropyValid
  · exact h.entropyInvalid
  · exact h.stripWithoutEntropy
  · exact h.entTail
  · exact h.idxTail
  · exact h.indicesValid
  · exact h.stripValid
  · exact h.stripInvalid
  · exact h.seedValid
  · exact h.seedInvalid
  · exact h.passTail
  · exact h.passSize
  · exact h.plenBound
  · exact h.overflowFull
  · exact h.unknownRecord
  · exact h.errorDetail
  · exact h.errorCode
  · exact h.fatalCode
  · exact hl
  · exact h.inFlight
  · exact h.acceptedConstructor
  · exact h.acceptedEncode
  · exact h.acceptedSeed

/-- Normal completion of a command in flight (R220). -/
theorem stateInv_finish {s : State} (h : StateInv s) (hb : s.phase = .busy) : StateInv (finish s) := by
  have h5 : ¬ s.err = 5#4 := by rw [(h.inFlight hb).2]; decide
  constructor
  · exact h.entropyValid
  · exact h.entropyInvalid
  · exact h.stripWithoutEntropy
  · exact h.entTail
  · exact h.idxTail
  · exact h.indicesValid
  · exact h.stripValid
  · exact h.stripInvalid
  · exact h.seedValid
  · exact h.seedInvalid
  · exact h.passTail
  · exact h.passSize
  · exact h.plenBound
  · exact h.overflowFull
  · exact h.unknownRecord
  · exact h.errorDetail
  · exact h.errorCode
  · simp [finish, h5]
  · exact h.langCode
  all_goals simp [finish]

/-- A recoverable error (R230). -/
theorem stateInv_failWith {s : State} (h : StateInv s) (e : CommandError)
    (he : ∀ a b, e ≠ .internalInvariantViolation a b) : StateInv (failWith e s) := by
  constructor
  · exact h.entropyValid
  · exact h.entropyInvalid
  · exact h.stripWithoutEntropy
  · exact h.entTail
  · exact h.idxTail
  · exact h.indicesValid
  · exact h.stripValid
  · exact h.stripInvalid
  · exact h.seedValid
  · exact h.seedInvalid
  · exact h.passTail
  · exact h.passSize
  · exact h.plenBound
  · exact h.overflowFull
  · exact h.unknownRecord
  all_goals cases e <;> simp_all [failWith, errCode]
  all_goals exact h.langCode

/-- InvalidateE (R52). -/
theorem stateInv_invalidateE {s : State} (h : StateInv s) : StateInv (invalidateE s) := by
  constructor <;> simp only [invalidateE, invalidateI, invalidateD, invalidateS]
  all_goals try (simp; done)
  · exact h.entTail
  · exact h.idxTail
  · exact h.passTail
  · exact h.passSize
  · exact h.plenBound
  · exact h.overflowFull
  · exact h.unknownRecord
  · exact h.errorDetail
  · exact h.errorCode
  · exact h.fatalCode
  · exact h.langCode
  · exact h.inFlight

/-- InvalidateI and InvalidateD (R52). -/
theorem stateInv_invalidateDI {s : State} (h : StateInv s) : StateInv (invalidateD (invalidateI s)) := by
  constructor <;> simp only [invalidateI, invalidateD]
  all_goals try (simp; done)
  · exact h.entropyValid
  · intro he; have := h.entropyInvalid he; simp [this]
  · exact h.entTail
  · exact h.idxTail
  · exact h.seedValid
  · exact h.seedInvalid
  · exact h.passTail
  · exact h.passSize
  · exact h.plenBound
  · exact h.overflowFull
  · exact h.unknownRecord
  · exact h.errorDetail
  · exact h.errorCode
  · exact h.fatalCode
  · exact h.langCode
  · exact h.inFlight
  · intro hb hd; exact ⟨(h.acceptedConstructor hb hd).1, trivial⟩
  · exact h.acceptedSeed

/-- InvalidateS (R52). -/
theorem stateInv_invalidateS {s : State} (h : StateInv s) : StateInv (invalidateS s) := by
  constructor <;> simp only [invalidateS]
  all_goals try (simp; done)
  · exact h.entropyValid
  · intro he; have := h.entropyInvalid he; simp [this]
  · exact h.stripWithoutEntropy
  · exact h.entTail
  · exact h.idxTail
  · exact h.indicesValid
  · exact h.stripValid
  · exact h.stripInvalid
  · exact h.passTail
  · exact h.passSize
  · exact h.plenBound
  · exact h.overflowFull
  · exact h.unknownRecord
  · exact h.errorDetail
  · exact h.errorCode
  · exact h.fatalCode
  · exact h.langCode
  · exact h.inFlight
  · exact h.acceptedConstructor
  · exact h.acceptedEncode

end Sys2Proof.Machine
end

