-- ==== Sys2Proof/Laws/PerInstr.lean ====
section
/-! SUPPORT. The per-instruction family MatchesRow: the encoder's word of an instruction matches the instruction's own row of
spec/opcode_table.json, in the table's sense `w and mask = match` (30_encoding.md R100). -/

namespace Sys2Proof.Laws.MatchesRow

/-- The mask and the match of each row, as the table prints them. -/
def row : Instr → Nat × Nat
  | .nop => (0xFFFF, 0x0000)
  | .loade => (0xFFFF, 0x0001)
  | .rande => (0xFFFF, 0x0002)
  | .encode => (0xFFFF, 0x0003)
  | .decode => (0xFFFF, 0x0004)
  | .verify => (0xFFFF, 0x0005)
  | .seed => (0xFFFF, 0x0006)
  | .clr _ => (0xF0FF, 0x0007)
  | .wrctrl _ _ => (0x3FF0000, 0x2010000)
  | .cmdwr _ => (0x3FF0000, 0x2020000)
  | .ack _ => (0x3FF0000, 0x2030000)
  | .wrlang _ => (0x3FF0000, 0x2060000)
  | .epush _ => (0x3FF0000, 0x2100000)
  | .ipush _ _ => (0x3FF0000, 0x2110000)
  | .ppush _ => (0x3FF0000, 0x2120000)
  | .rd _ => (0x2000000, 0x0000)

/-- A word as the number whose bits the table numbers. -/
def wordValue : CodeWord → Nat
  | .cmd w => w.toNat
  | .bus b => b.toNat

/-- The encoded instruction matches its row. -/
def Statement (i : Instr) : Prop := wordValue (encode i) &&& (row i).1 = (row i).2

/-- A transaction masked to `we` and `rn`. -/
theorem busWord_masked (we : Bool) (rn : RegNum) (d : Half) :
    (busWord we rn d).toNat &&& 0x3FF0000 = (busWord we rn 0).toNat := by
  have h : busWord we rn d &&& 0x3FF0000#26 = busWord we rn 0 := by
    refine BitVec.eq_of_getLsbD_eq fun i hi => ?_
    have hm : ∀ i < 26, (0x3FF0000#26).getLsbD i = decide (16 ≤ i) := by decide
    rw [BitVec.getLsbD_and, hm i (by omega)]
    simp only [busWord, BitVec.getLsbD_append]
    by_cases h16 : i < 16
    · simp [h16, show ¬ 16 ≤ i by omega]
    · simp [h16, show 16 ≤ i by omega]
  rw [← h]
  rfl

theorem nop : Statement (.nop) := rfl

theorem loade : Statement (.loade) := rfl

theorem rande : Statement (.rande) := rfl

theorem encode : Statement (.encode) := rfl

theorem decode : Statement (.decode) := rfl

theorem verify : Statement (.verify) := rfl

theorem seed : Statement (.seed) := rfl

theorem clr (m : BitVec 4) : Statement (.clr m) := by
  revert m
  show ∀ m : BitVec 4, (cmdWord m 7).toNat &&& 0xF0FF = 0x0007
  decide

theorem wrctrl (ie strict : Bool) : Statement (.wrctrl ie strict) := busWord_masked true _ _

theorem cmdwr (w : CmdWord) : Statement (.cmdwr w) := busWord_masked true _ _

theorem ack (a : Bool) : Statement (.ack a) := busWord_masked true _ _

theorem wrlang (code : BitVec 4) : Statement (.wrlang code) := busWord_masked true _ _

theorem epush (b : Byte) : Statement (.epush b) := busWord_masked true _ _

theorem ipush (unk : Bool) (n : Idx) : Statement (.ipush unk n) := busWord_masked true _ _

theorem ppush (b : Byte) : Statement (.ppush b) := busWord_masked true _ _

theorem rd (rn : RegNum) : Statement (.rd rn) := by
  have h : busWord false rn 0 &&& 0x2000000#26 = 0 := by
    refine BitVec.eq_of_getLsbD_eq fun i hi => ?_
    have hm : ∀ i < 26, (0x2000000#26).getLsbD i = decide (i = 25) := by decide
    rw [BitVec.getLsbD_and, hm i (by omega)]
    by_cases h25 : i = 25
    · subst h25
      exact congrArg (· && true) (busWe_busWord false rn 0)
    · simp [h25]
  exact congrArg BitVec.toNat h

end Sys2Proof.Laws.MatchesRow
end

