-- ==== Sys2Proof/Tests/Slice0.lean ====
section
/-! SUPPORT. The model's own tests: the well-formedness checks and the decoder on words written out from the spec's encodings, one-step
checks of each instruction against 95_test_vectors.md and the examples of the rules, and a witness for each obligation that has
hypotheses. A digest is opaque in the model, so a vector that rests on one is tested on the function the command calls, with the
digest's leading byte as the vector gives it. -/

namespace Sys2Proof.Tests

open Sys2Proof.Machine

-- One theorem after the other: elaborated at once, this file's kernel decisions ask for more threads than check.sh's limit allows.
set_option Elab.async false

/-- The state after an outcome. -/
def after (o : Host.Outcome State Fault Refusal) : State :=
  match o with
  | .next s => s
  | .fault _ | .refused _ => State.reset

/-- The state after a command completes. -/
def complete (i : Instr) (s : State) : State := after (exec i { s with phase := .busy })

/-- The state after a transaction. -/
def access (c : HostCycle) (s : State) : State := after (step { s with host := [c] })

/-! ## Well-formedness: each check refuses a word of its own (R97, V83) -/

theorem test_wellformed_reserved_opcode : WellFormed.opAssigned 0x0008 = false ∧ (CodeWord.cmd 0x000F).wellFormed = false := by decide

theorem test_wellformed_z0 : WellFormed.z0Zero 0x0010 = false ∧ (CodeWord.cmd 0x0010).wellFormed = false := by decide

theorem test_wellformed_z1 : WellFormed.z1Zero 0x1001 = false ∧ (CodeWord.cmd 0x1001).wellFormed = false := by decide

theorem test_wellformed_mask : WellFormed.maskAllowed 0x0101 = false ∧ (CodeWord.cmd 0x0F03).wellFormed = false
    ∧ (CodeWord.cmd 0x0F07).wellFormed = true := by decide

theorem test_wellformed_bus : WellFormed.writable 0x000 = false ∧ (CodeWord.bus (busWord true 0x00F 0)).wellFormed = false
    ∧ (CodeWord.bus (busWord true 0x012 0)).wellFormed = true ∧ (CodeWord.bus (busWord false 0x00F 0)).wellFormed = true := by decide

/-! ## Decoding, words written out from R92 to R95 -/

theorem test_decode_commands :
    decodeCmd 0b0000_0000_0000_0000 = .ok .nop ∧ decodeCmd 0b0000_0000_0000_0001 = .ok .loade
      ∧ decodeCmd 0b0000_0000_0000_0010 = .ok .rande ∧ decodeCmd 0b0000_0000_0000_0011 = .ok .encode
      ∧ decodeCmd 0b0000_0000_0000_0100 = .ok .decode ∧ decodeCmd 0b0000_0000_0000_0101 = .ok .verify
      ∧ decodeCmd 0b0000_0000_0000_0110 = .ok .seed ∧ decodeCmd 0b0000_1010_0000_0111 = .ok (.clr 0b1010) := by decide

theorem test_decode_illegal_commands :
    decodeCmd 0x0008 = .error (.illegalCommand 0x0008) ∧ decodeCmd 0x0017 = .error (.illegalCommand 0x0017)
      ∧ decodeCmd 0x8007 = .error (.illegalCommand 0x8007) ∧ decodeCmd 0x0103 = .error (.illegalCommand 0x0103) := by decide

/-- Ignored data bits are set to 1 here. -/
theorem test_decode_writes :
    decodeBus 0b1_000000001_1111111111111110 = .ok (.wrctrl true false)
      ∧ decodeBus 0b1_000000010_1000000000001111 = .ok (.cmdwr 0x800F)
      ∧ decodeBus 0b1_000000011_1111111111111110 = .ok (.ack false)
      ∧ decodeBus 0b1_000000110_1111111111110111 = .ok (.wrlang 7)
      ∧ decodeBus 0b1_000010000_1111111101111111 = .ok (.epush 0x7F)
      ∧ decodeBus 0b1_000010001_0111110000000001 = .ok (.ipush false 0x401)
      ∧ decodeBus 0b1_000010001_1000001111111111 = .ok (.ipush true 0x3FF)
      ∧ decodeBus 0b1_000010010_1111111101010100 = .ok (.ppush 0x54) := by decide

theorem test_decode_reads_and_unmapped :
    decodeBus 0b0_001000000_1111111111111111 = .ok (.rd 0x040) ∧ decodeBus 0b1_000000000_0000000000000001 = .error (.unmappedWrite 0)
      ∧ decodeBus 0b1_100000001_0000000000000001 = .error (.unmappedWrite 0x101) := by decide

/-! ## The data forms (95_test_vectors.md sections 2 and 4) -/

/-- R130's example: the digest of 16 zero bytes begins 0x37, the checksum is 3; V25: it begins 0x00, all eight bits. -/
theorem test_checksum_leading_bits :
    checksumOf (Vector.ofFn fun i => if i.val = 0 then 0x37 else 0xFF) 16 = (4, 3)
      ∧ checksumOf (Vector.ofFn fun i => if i.val = 0 then 0x3A else 0x00) 28 = (7, 0x1D) := by decide +kernel

/-- V3: 7f*16 with checksum 8. -/
theorem test_pack_V3 : groups (packed (List.replicate 16 0x7F) 4 8)
    = [0x3FB, 0x7DF, 0x6FE, 0x7F7, 0x7BF, 0x5FD, 0x7EF, 0x77F, 0x3FB, 0x7DF, 0x6FE, 0x7F8] := by decide +kernel

/-- V11: 00..13 with checksum 0x1c. -/
theorem test_pack_V11 : groups (packed ((List.range 20).map (BitVec.ofNat 8)) 5 0x1C)
    = [0x000, 0x040, 0x406, 0x040, 0x283, 0x01C, 0x101, 0x10A, 0x058, 0x303, 0x21C, 0x0F1, 0x008, 0x448, 0x27C] := by
  decide +kernel

/-- V56: eighteen times index 1. -/
theorem test_strip_V56 : unpack (List.replicate 18 1) = some
    { ent := [0x00, 0x20, 0x04, 0x00, 0x80, 0x10, 0x02, 0x00, 0x40, 0x08, 0x01, 0x00, 0x20, 0x04, 0x00, 0x80, 0x10, 0x02, 0x00,
        0x40, 0x08, 0x01, 0x00, 0x20]
      cs := 6, x := 1 } := by decide +kernel

/-! ## Host transactions -/

/-- V93. -/
theorem test_wrctrl_ignores_upper_bits : regRead (access (hostWr 0x001 0xFFFF) State.reset) 0x001 = 0x0003 := by decide +kernel

/-- R116's example: BUSY shows; V88, V89: writes are dropped and data reads are 0 while BUSY. -/
theorem test_cmdwr_busy :
    regRead (access (hostCmd 1) State.reset) 0x003 = 0x0002
      ∧ (access (hostPushe 0x55) { State.reset with phase := .busy, opc := 1, wait := some 3 }).elen = 0
      ∧ regRead { State.reset with phase := .busy, ent := Vector.replicate 32 0x55 } 0x020 = 0 := by decide +kernel

/-- R116: a SEED accepted clears a valid seed; an illegal word invalidates nothing. -/
theorem test_cmdwr_invalidates :
    (after (exec (.cmdwr 0x0006) { State.reset with svalid := true, evalid := true })).svalid = false
      ∧ (after (exec (.cmdwr 0x0006) { State.reset with svalid := true, evalid := true })).evalid = true
      ∧ (after (exec (.cmdwr 0x0016) { State.reset with svalid := true, err := 4 })).svalid = true
      ∧ (after (exec (.cmdwr 0x0016) { State.reset with svalid := true, err := 4 })).err = 0 := by decide +kernel

/-- V95, and `ack` (R98). -/
theorem test_ack :
    (access (hostWr 0x003 0xFFFE) { State.reset with done := true }).done = true
      ∧ (access hostAck { State.reset with done := true, err := 4 }).done = false
      ∧ (access hostAck { State.reset with done := true, err := 4 }).err = 4 := by decide +kernel

/-- V90, V92. -/
theorem test_wrlang :
    regRead (access (hostWr 0x006 7) State.reset) 0x007 = 0x3000
      ∧ regRead (access (hostWr 0x006 12) (access (hostWr 0x006 7) State.reset)) 0x006 = 7
      ∧ regRead (access (hostWr 0x006 9) State.reset) 0x007 = 0x0020 := by decide +kernel

/-- V48, and the 33rd byte is counted and not stored (V42). -/
theorem test_epush :
    (access (hostWr 0x010 0x1234) State.reset).ent.getD 0 0 = 0x34
      ∧ (access (hostPushe 0xAA) { State.reset with elen := 32, ent := Vector.replicate 32 0x11 }).elen = 33
      ∧ (access (hostPushe 0xAA) { State.reset with elen := 32, ent := Vector.replicate 32 0x11 }).ent = Vector.replicate 32 0x11 := by
  decide +kernel

/-- V45's saturation; V47: a push destroys the Mnemonic instance. -/
theorem test_epush_saturates_and_invalidates :
    (access (hostPushe 1) { State.reset with elen := 255 }).elen = 255
      ∧ (access (hostPushe 1) { State.reset with elen := 16, evalid := true, csum := 3, cslen := 4 }).evalid = false
      ∧ (access (hostPushe 1) { State.reset with elen := 16, evalid := true, csum := 3, cslen := 4 }).cslen = 0 := by decide +kernel

/-- V68, V69, and R113's example. -/
theorem test_ipush :
    (access (hostWr 0x011 0xFFFF) State.reset).idx.getD 0 0 = 0x7FF ∧ (access (hostWr 0x011 0xFFFF) State.reset).unkseen = true
      ∧ (access (hostWr 0x011 0x7800) State.reset).idx.getD 0 0 = 0 ∧ (access (hostWr 0x011 0x7800) State.reset).unkseen = false
      ∧ (access hostPushu { State.reset with wcnt := 1 }).unkpos = 1 := by decide +kernel

/-- V67's record: only the first marked write counts, and a marked write at 255 records 255. -/
theorem test_ipush_first_marker :
    (access hostPushu { State.reset with wcnt := 6, unkseen := true, unkpos := 5 }).unkpos = 5
      ∧ (access hostPushu { State.reset with wcnt := 255 }).unkpos = 255
      ∧ (access hostPushu { State.reset with wcnt := 255 }).wcnt = 255 := by decide +kernel

/-- R114's example, and V36's overflow with PASS_MAX = 256. -/
theorem test_ppush :
    (access (hostPushp 0x54) State.reset).pass.getD 0 0 = 0x54 ∧ (access (hostPushp 0x54) State.reset).plen = 1
      ∧ (access (hostPushp 0x61) { State.reset with plen := 256 }).povf = true
      ∧ (access (hostPushp 0x61) { State.reset with plen := 256 }).plen = 256 := by decide +kernel

/-- V39: a push drops a valid seed; R114: with PASS_MAX = 0 every push overflows. -/
theorem test_ppush_invalidates :
    (access (hostPushp 1) { State.reset with svalid := true, seed := Vector.replicate 64 9 }).seed = Vector.replicate 64 0
      ∧ (access (hostPushp 1) { State.reset with pass := [] }).povf = true := by decide +kernel

/-- V80, V97. -/
theorem test_rd :
    (access (hostRd 0x000) State.reset).rdata = 0xB039
      ∧ [0x00F, 0x013, 0x058, 0x0C0, 0x1FF, 0x002, 0x010].all (fun rn => regRead State.reset rn == 0) := by decide +kernel

/-! ## Commands at completion -/

/-- V82. -/
theorem test_nop : regRead (complete .nop State.reset) 0x003 = 0x0001 := by decide +kernel

/-- V41, V45. -/
theorem test_loade_rejects :
    regRead (complete .loade { State.reset with elen := 15 }) 0x003 = 0x0005
      ∧ (complete .loade { State.reset with elen := 15 }).errinfo = 0x000F
      ∧ (complete .loade { State.reset with elen := 255 }).errinfo = 0x00FF := by decide +kernel

/-- R131's example, but for the digest: CSLEN = 4, STATUS = 0x0011. -/
theorem test_loade_accepts :
    (complete .loade { State.reset with elen := 16 }).cslen = 4
      ∧ regRead (complete .loade { State.reset with elen := 16 }) 0x003 = 0x0011 := by decide +kernel

/-- Section 3's corner case: RANDE after pushes that left ELEN = 33 succeeds. -/
theorem test_rande :
    let t := rande (fun _ => Vector.replicate 32 0xA5) (Vector.replicate 32 0x11) { State.reset with phase := .busy, elen := 33 }
    t.elen = 32 ∧ t.cslen = 8 ∧ t.csum = 0xA5 ∧ t.ent = Vector.replicate 32 0x11 ∧ regRead t 0x003 = 0x0011 := by decide +kernel

/-- V2 with its CSUM: ENCODE of sixteen 0xFF. -/
theorem test_encode_V2 :
    (complete .encode { State.reset with
      ent := fill 32 (List.replicate 16 0xFF), elen := 16, cslen := 4, csum := 5, evalid := true }).idx
      = fill 24 (List.replicate 11 0x7FF ++ [0x7F5]) := by decide +kernel

/-- V98: the count check fails. -/
theorem test_encode_V98 :
    let t := complete .encode { State.reset with evalid := true, elen := 16, cslen := 5, ie := true, wcnt := 3 }
    t.phase = .fault ∧ t.errinfo = 0x0C0C ∧ regRead t 0x003 = 0x000D ∧ t.evalid = false ∧ t.wcnt = 0 ∧ t.ie = true := by
  decide +kernel

/-- V61, V65. -/
theorem test_decode_rejects :
    (complete .decode { State.reset with wcnt := 13 }).errinfo = 0x000D
      ∧ regRead (complete .decode { State.reset with wcnt := 13 }) 0x003 = 0x0005
      ∧ (complete .decode { State.reset with wcnt := 7, lang := 7, unkseen := true, unkpos := 5 }).errinfo = 0x0705
      ∧ regRead (complete .decode { State.reset with wcnt := 7, lang := 7, unkseen := true, unkpos := 5 }) 0x003 = 0x0205 := by
  decide +kernel

/-- V51 with the digest's checksum given: permissive, then strict. -/
theorem test_strip_modes :
    let u : Unpacked := { ent := List.replicate 16 0, cs := 4, x := 0 }
    regRead (strip u (4, 3) State.reset) 0x003 = 0x0051
      ∧ (strip u (4, 3) State.reset).csum = 3
      ∧ (strip u (4, 3) { State.reset with strict := true }).errinfo = 0x0300
      ∧ regRead (strip u (4, 3) { State.reset with strict := true }) 0x003 = 0x0045 := by decide +kernel

/-- V70; program P2's second VERIFY. -/
theorem test_verify :
    (complete .verify State.reset).errinfo = 0x0005 ∧ (complete .verify State.reset).err = 7
      ∧ (complete .verify { State.reset with dvalid := true, ecs := 9 }).errinfo = 0x0009
      ∧ (complete .verify { State.reset with dvalid := true, csok := true, ecs := 8 }).err = 0 := by decide +kernel

/-- V35, V36, V38. -/
theorem test_seed_refuses :
    (complete .seed State.reset).errinfo = 0x0006
      ∧ (complete .seed { State.reset with evalid := true, povf := true, plen := 256 }).errinfo = 0x0100
      ∧ (complete .seed { State.reset with povf := true }).err = 7 := by decide +kernel

/-- V30's salt. -/
theorem test_seed_salt :
    saltOf { State.reset with plen := 6, pass := [0x54, 0x52, 0x45, 0x5A, 0x4F, 0x52] }
      = [0x6D, 0x6E, 0x65, 0x6D, 0x6F, 0x6E, 0x69, 0x63, 0x54, 0x52, 0x45, 0x5A, 0x4F, 0x52] := by decide +kernel

/-- V86, V87 on V1's end state. -/
theorem test_clr :
    let s : State := { State.reset with
      elen := 16, cslen := 4, csum := 3, evalid := true, wcnt := 12, idx := fill 24 (List.replicate 11 0 ++ [3]), ivalid := true }
    regRead (complete (.clr 2) s) 0x003 = 0x0011 ∧ (complete (.clr 2) s).wcnt = 0
      ∧ regRead (complete (.clr 1) s) 0x003 = 0x0001 ∧ (complete (.clr 1) s).wcnt = 12 := by decide +kernel

/-- V84, V85. -/
theorem test_clr_none_and_all :
    complete (.clr 0) { State.reset with elen := 5 } = { State.reset with elen := 5, done := true }
      ∧ complete (.clr 15) { State.reset with elen := 5, wcnt := 2, plen := 3, povf := true, svalid := true, lang := 7, strict := true }
        = { State.reset with lang := 7, strict := true, done := true } := by decide +kernel

/-! ## The step -/

/-- A command word is completed by one step where withFetchWord places it, and an illegal one too (V83). -/
theorem test_step_completes :
    (after (step (State.reset.withFetchWord 16 0x0000))).done = true
      ∧ (after (step (State.reset.withFetchWord 16 0x0008))).errinfo = 0x0008
      ∧ regRead (after (step (State.reset.withFetchWord 16 0x0008))) 0x003 = 0x0005 := by decide +kernel

/-- V96: reset in BUSY; R70: a read in the cycle of completion sees the state before the edge. -/
theorem test_step_reset_and_late_read :
    (after (step { State.reset with phase := .busy, opc := 6, elen := 9, host := [.reset none] })).elen = 0
      ∧ (after (step { State.reset with phase := .busy, wait := some 0, host := [hostRd 0x003] })).rdata = 0x0002
      ∧ (after (step { State.reset with phase := .busy, wait := some 0, host := [hostRd 0x003] })).done = true := by decide +kernel

/-- R262: an oracle that never answers. -/
theorem test_step_hangs :
    (after (step { State.reset with phase := .busy, opc := 1, wait := none, host := [hostPushe 1] })).phase = .busy := by decide +kernel

/-- R99: the pseudo-operations. -/
theorem test_host_programs :
    hostCmdClr true true true true = hostWr 0x002 0x0F07 ∧ hostPassphrase ['T', 'é'] = [hostPushp 0x54, hostPushp 0xC3, hostPushp 0xA9] := by
  decide +kernel

/-- R99: the expansion of `expect`; P1's `run LOADE` and its first expectation. -/
theorem test_expect_expands :
    programCycles [.cycles (hostRun 1), .expect 0x003 0x0011, .expect 0x00B 4]
      = [hostCmd 1, .wait, .access 0b0_000000011_0000000000000000, .access 0b0_000001011_0000000000000000] := by decide +kernel

/-- V80 as a program: `run NOP`, then `expect ID == 0xB039`, after whatever the wait takes and from whatever state. -/
theorem test_expect_id (s : State) : ExpectsHold [.cycles (hostRun 0), .expect 0x000 0xB039] s := by
  intro before rest rn v hp n t u _ hh hs
  have hm : ProgramLine.expect rn v ∈ [.cycles (hostRun 0), .expect 0x000 0xB039] := by rw [hp]; simp
  simp only [List.mem_cons, List.not_mem_nil, or_false, ProgramLine.expect.injEq, reduceCtorEq, false_or] at hm
  obtain ⟨rfl, rfl⟩ := hm
  rw [(step_read hh hs).1]
  cases ht : t.phase <;> simp [regRead, ht, alwaysReadable, regValue]

/-- R211, R258, on program P1's start (a `rd STATUS` stands between the command and its `wait`) and on a write that does not wait. -/
theorem test_waitsForCommands :
    waitsForCommands false [hostCmd 1, hostRd 0x003, .quiet, .wait, hostCmd 3] = true
      ∧ waitsForCommands false [hostCmd 1, hostRd 0x003, hostAck] = false
      ∧ waitsForCommands false [hostCmd 1, .reset none, hostAck] = true := by decide +kernel

/-- R211: the sight of STATUS = 0x0001 ends the duty to wait, 0x0002 does not; after FATAL only a reset. -/
theorem test_host_duties :
    writesAfterIdle false [⟨hostCmd 1, 0⟩, ⟨hostRd 0x003, 0x0002⟩, ⟨hostRd 0x003, 0x0001⟩, ⟨hostAck, 0⟩] = true
      ∧ writesAfterIdle false [⟨hostCmd 1, 0⟩, ⟨hostRd 0x003, 0x0002⟩, ⟨hostAck, 0⟩] = false
      ∧ readsAfterIdle false [⟨hostCmd 1, 0⟩, ⟨hostRd 0x004, 0⟩] = false
      ∧ resetsAfterFatal false [⟨.wait, 0x000D⟩, ⟨hostRd 0x005, 0x0C0C⟩, ⟨hostAck, 0⟩] = false
      ∧ resetsAfterFatal false [⟨.wait, 0x000D⟩, ⟨.reset none, 0⟩, ⟨hostCmd 2, 0⟩] = true := by decide +kernel

/-- R260, R264: the driver's calls clear the group they push into; only the right group counts; what is pushed is cleared again. -/
theorem test_host_clears :
    clearsFirst 0x010 0 (constructFromEntropy [0x7F]) = true ∧ clearsFirst 0x012 2 (toSeed ['a']) = true
      ∧ clearsFirst 0x012 2 (hostRunClr true false false false ++ [hostPushp 1]) = false
      ∧ leavesNoSecrets true (constructRandom ++ clearSecrets) = true ∧ leavesNoSecrets true constructRandom = false := by
  decide +kernel

/-- R207 on V65's report, R43's ends: an unknown word at position 5 in Japanese. -/
theorem test_unknown_word_report :
    callResult (List.replicate 5 ['a'] ++ [['x']]) { State.reset with err := 2, errinfo := 0x0705 }
        = .unknownWord (some ['x']) (some .japanese)
      ∧ languageOfCode 9 = some .chineseTraditional ∧ languageOfCode 10 = none
      ∧ callResult [] { State.reset with err := 5 } = .abort := by decide +kernel

/-! ## Witnesses: for each obligation with hypotheses, a state and operands that meet them together -/

/-- A state in IDLE meets the hypotheses of the statements about host writes and IDLE reads, at every register value. -/
theorem test_witness_idle :
    State.reset.phase = .idle ∧ ({ State.reset with elen := 255, wcnt := 255, done := true } : State).phase = .idle := by decide

/-- ResetEdgeClearsTheBlock: a write and a read presented with `rst`, in BUSY and in FAULT. -/
theorem test_witness_ResetEdgeClearsTheBlock :
    ({ State.reset with phase := .busy, host := [.reset (some (busWord true 0x010 1))] } : State).host
        = .reset (some (busWord true 0x010 1)) :: []
      ∧ busWe (busWord true 0x010 1) = true ∧ busWe (busWord false 0x020 0) = false
      ∧ ({ State.reset with phase := .fault, host := [.reset none, .wait] } : State).host = .reset none :: [.wait] := by decide

/-- FaultIsLeftOnlyByReset and the FAULT clause of InterruptLineFollowsDoneAndIe: a command write in FAULT. -/
theorem test_witness_FaultIsLeftOnlyByReset :
    let s : State := { State.reset with phase := .fault, err := 5, done := true, host := [hostCmd 0] }
    s.phase = .fault ∧ (∀ b rest, s.host ≠ .reset b :: rest) ∧ ∃ t, step s = .next t :=
  ⟨rfl, by simp [hostCmd, hostWr], _, rfl⟩

/-- BusyReadHidesTheData, CommandsActOnlyInBusy (an IDLE state), FaultReadShowsTheError. -/
theorem test_witness_phases :
    ({ State.reset with phase := .busy } : State).phase = .busy ∧ ({ State.reset with phase := .fault } : State).phase = .fault
      ∧ State.reset.phase ≠ .busy ∧ isCommand .nop = true ∧ isCommand (.clr 15) = true := by decide

/-- ReservedNumbersReadZeroAndIgnoreWrites: the ends of each range, and their neighbours, which are in none. -/
theorem test_witness_reserved :
    let reserved (n : Nat) := n = 0x00F ∨ (0x013 ≤ n ∧ n ≤ 0x01F) ∨ (0x058 ≤ n ∧ n ≤ 0x07F) ∨ 0x0C0 ≤ n
    (∀ n ∈ [0x00F, 0x013, 0x01F, 0x058, 0x07F, 0x0C0, 0x1FF], reserved n)
      ∧ ∀ n ∈ [0x00E, 0x010, 0x012, 0x020, 0x057, 0x080, 0x0BF], ¬ reserved n := by decide

/-- PassphraseIsReadBySeedAlone: two passphrases of PASS_MAX bytes, under a read and under a CLR. -/
theorem test_witness_PassphraseIsReadBySeedAlone :
    Instr.rd 0x00A ≠ .seed ∧ (List.replicate 256 (1 : Byte)).length = State.reset.pass.length
      ∧ (∃ t, exec (.rd 0x00A) State.reset = .next t) ∧ ∃ t, exec (.clr 4) { State.reset with phase := .busy } = .next t :=
  ⟨by decide, by decide +kernel, ⟨_, rfl⟩, ⟨_, rfl⟩⟩

/-- WritesOutsideIdleAreDropped: a write in BUSY and in FAULT. -/
theorem test_witness_WritesOutsideIdleAreDropped :
    busWe (busWord true 0x002 0x0000) = true ∧ ({ State.reset with phase := .busy } : State).phase ≠ .idle
      ∧ busWe (busWord true 0x1FF 0xFFFF) = true ∧ ({ State.reset with phase := .fault } : State).phase ≠ .idle := by decide

/-- PpushAppendsOrOverflows: each clause at its boundary. -/
theorem test_witness_PpushAppendsOrOverflows :
    ({ State.reset with plen := 255 } : State).plen.toNat < ({ State.reset with plen := 255 } : State).pass.length
      ∧ ({ State.reset with plen := 256 } : State).pass.length ≤ ({ State.reset with plen := 256 } : State).plen.toNat := by
  decide +kernel

/-- CommandWriteAccepts: a word of each clause (e, n, d, none, illegal) and both phases. -/
theorem test_witness_CommandWriteAccepts :
    ([0x0001, 0x0002, 0x0004, 0x0003, 0x0006, 0x0000, 0x0F07].all WellFormed.legalCmd = true)
      ∧ WellFormed.legalCmd 0x0011 = false ∧ State.reset.phase = .idle ∧ ({ State.reset with phase := .busy } : State).phase ≠ .idle := by
  decide

/-- LoadeConstructsOrRejects: the ends of both clauses. -/
theorem test_witness_LoadeConstructsOrRejects :
    (∀ n ∈ [16, 32], ({ State.reset with phase := .busy, elen := BitVec.ofNat 8 n } : State).elen.toNat ∈ [16, 20, 24, 28, 32])
      ∧ ∀ n ∈ [0, 15, 17, 33, 255],
        ({ State.reset with phase := .busy, elen := BitVec.ofNat 8 n } : State).elen.toNat ∉ [16, 20, 24, 28, 32] := by decide

/-- EncodePacksTheBits: the shortest and the longest entropy, and a checksum that fits. -/
theorem test_witness_EncodePacksTheBits :
    let s : State := { State.reset with phase := .busy, evalid := true, elen := 32, cslen := 8, csum := 255 }
    let r : State := { State.reset with phase := .busy, evalid := true, elen := 16, cslen := 4, csum := 15 }
    (s.phase = .busy ∧ s.evalid = true ∧ s.elen.toNat ∈ [16, 20, 24, 28, 32] ∧ s.cslen.toNat = s.elen.toNat / 4
        ∧ s.csum.toNat < 2 ^ s.cslen.toNat)
      ∧ r.phase = .busy ∧ r.evalid = true ∧ r.elen.toNat ∈ [16, 20, 24, 28, 32] ∧ r.cslen.toNat = r.elen.toNat / 4
        ∧ r.csum.toNat < 2 ^ r.cslen.toNat := by decide

/-- EncodeNeedsAnEntropy, NopRuns, RandeConstructsFromTheDraw, ClrClearsTheGroups: a command in flight without an entropy. -/
theorem test_witness_in_flight :
    ({ State.reset with phase := .busy } : State).phase = .busy ∧ ({ State.reset with phase := .busy } : State).evalid = false := by
  decide

/-- EncodeCountMismatchIsFatal: V98, and one bit too few. -/
theorem test_witness_EncodeCountMismatchIsFatal :
    let s (c : BitVec 4) : State := { State.reset with phase := .busy, evalid := true, elen := 16, cslen := c }
    (∀ c ∈ [(5 : BitVec 4), 3], (s c).phase = .busy ∧ (s c).evalid = true ∧ (s c).elen.toNat ∈ [16, 20, 24, 28, 32]
      ∧ 8 * (s c).elen.toNat + (s c).cslen.toNat ≠ 11 * (3 * (s c).elen.toNat / 4)) := by decide

/-- Bits of an index buffer of zeros. -/
theorem heldBit_zeros {s : State} (h : s.idx = Vector.replicate 24 0) (p : Nat) : heldBit s p = false := by
  rw [heldBit, h, getD_replicate_zero]
  simp

/-- DecodeRecoversTheEntropy: twelve and twenty-four zero indices, permissive. -/
theorem test_witness_DecodeRecoversTheEntropy :
    ∀ m ∈ [12, 24],
      let s : State := { State.reset with phase := .busy, wcnt := BitVec.ofNat 8 m }
      let e : List Byte := List.replicate (4 * m / 3) 0
      s.phase = .busy ∧ s.unkseen = false ∧ m = s.wcnt.toNat ∧ m ∈ [12, 15, 18, 21, 24] ∧ e.length = 4 * m / 3
        ∧ (∀ j k, j < 4 * m / 3 → k < 8 → (e.getD j 0).getMsbD k = heldBit s (8 * j + k)) ∧ s.strict = false := by
  intro m hm
  refine ⟨rfl, rfl, ?_, ?_, by simp, fun j k _ _ => ?_, rfl⟩
  · revert m
    decide
  · revert m
    decide
  · rw [heldBit_zeros rfl, list_getD_replicate_zero]
    simp

/-- StrictDecodeRejectsAMismatch: twelve indices, the last chosen so that its low four bits are not the digest's checksum. -/
theorem test_witness_StrictDecodeRejectsAMismatch :
    ∃ (s : State) (e : List Byte), s.phase = .busy ∧ s.unkseen = false ∧ 12 = s.wcnt.toNat ∧ e.length = 4 * 12 / 3
      ∧ (∀ j k, j < 4 * 12 / 3 → k < 8 → (e.getD j 0).getMsbD k = heldBit s (8 * j + k)) ∧ s.strict = true
      ∧ (Config.sha256 e)[0] >>> (8 - 12 / 3) ≠ BitVec.ofNat 8 ((s.idx.getD (12 - 1) 0).toNat % 2 ^ (12 / 3)) := by
  have last : ∀ p < 128, (((Vector.replicate 24 (0 : Idx)).set 11 1).getD (p / 11) 0).getMsbD (p % 11) = false := by decide +kernel
  by_cases h : (Config.sha256 (List.replicate 16 0))[0] >>> (8 - 12 / 3) = 0
  · refine ⟨{ State.reset with phase := .busy, wcnt := 12, strict := true, idx := (Vector.replicate 24 0).set 11 1 },
      List.replicate 16 0, rfl, rfl, rfl, by simp, fun j k hj hk => ?_, rfl, ?_⟩
    · rw [list_getD_replicate_zero, heldBit, last _ (by omega)]
      simp
    · rw [h]
      decide +kernel
  · refine ⟨{ State.reset with phase := .busy, wcnt := 12, strict := true }, List.replicate 16 0, rfl, rfl, rfl, by simp,
      fun j k _ _ => ?_, rfl, ?_⟩
    · rw [list_getD_replicate_zero, heldBit_zeros rfl]
      simp
    · show _ ≠ BitVec.ofNat 8 (((Vector.replicate 24 (0 : Idx)).getD (12 - 1) 0).toNat % 2 ^ (12 / 3))
      rw [getD_replicate_zero]
      exact h

/-- DecodeRejectsBadInput: each clause, the lengths at the edges of the legal set. -/
theorem test_witness_DecodeRejectsBadInput :
    ({ State.reset with phase := .busy, unkseen := true } : State).unkseen = true
      ∧ ∀ n ∈ [0, 11, 13, 25, 255], ({ State.reset with wcnt := BitVec.ofNat 8 n } : State).unkseen = false
        ∧ ({ State.reset with wcnt := BitVec.ofNat 8 n } : State).wcnt.toNat ∉ [12, 15, 18, 21, 24] := by decide

/-- VerifyReportsTheComparison: the three clauses. -/
theorem test_witness_VerifyReportsTheComparison :
    ({ State.reset with phase := .busy } : State).dvalid = false
      ∧ (({ State.reset with phase := .busy, dvalid := true } : State).dvalid = true
        ∧ ({ State.reset with phase := .busy, dvalid := true } : State).csok = false)
      ∧ ({ State.reset with phase := .busy, dvalid := true, csok := true } : State).csok = true := by decide

/-- SeedDerivesOrRefuses: the three clauses, the last with a full entropy and a full passphrase. -/
theorem test_witness_SeedDerivesOrRefuses :
    let s : State := { State.reset with phase := .busy, evalid := true, elen := 32, plen := 256 }
    ({ State.reset with phase := .busy } : State).evalid = false ∧ ({ s with povf := true } : State).povf = true
      ∧ s.evalid = true ∧ s.povf = false ∧ s.elen.toNat ≤ 32 ∧ s.plen.toNat ≤ s.pass.length := by decide +kernel

/-- IllegalWordCompletesWithAnError: a word of each way to be illegal. -/
theorem test_witness_IllegalWordCompletesWithAnError :
    State.reset.phase = .idle ∧ [0x0008, 0x000F, 0x0010, 0x1001, 0x0101].all (fun w => !WellFormed.legalCmd w) = true
      ∧ ∀ w : CmdWord, ({ State.reset with phase := .busy, opc := w } : State).phase = .busy
        ∧ ({ State.reset with phase := .busy, opc := w } : State).opc = w :=
  ⟨rfl, by decide, fun _ => ⟨rfl, rfl⟩⟩

/-- InterruptLineFollowsDoneAndIe: each clause has a state that meets it (the FAULT clause's is above). -/
theorem test_witness_InterruptLineFollowsDoneAndIe :
    (∃ t, exec .nop { State.reset with phase := .busy, ie := true } = .next t)
      ∧ (∃ t, completeLatched { State.reset with phase := .busy, opc := 8, ie := true } = .next t)
      ∧ (∃ t, exec (.ack true) { State.reset with done := true, ie := true } = .next t)
      ∧ (∃ t, exec (.cmdwr 0) { State.reset with done := true, ie := true } = .next t)
      ∧ (∃ t, exec (.wrctrl false true) { State.reset with done := true, ie := true } = .next t)
      ∧ ∃ t, step { State.reset with done := true, ie := true, host := [.reset none] } = .next t :=
  ⟨⟨_, rfl⟩, ⟨_, completeLatched_error (r := .illegalCommand 8) (by decide) rfl⟩, ⟨_, rfl⟩, ⟨_, rfl⟩, ⟨_, rfl⟩, ⟨_, rfl⟩⟩

/-- LanguageChangesNoComputation: ENCODE, and DECODE without an unknown word. -/
theorem test_witness_LanguageChangesNoComputation :
    (∀ rn, Instr.decode ≠ .rd rn) ∧ (∀ c, Instr.decode ≠ .wrlang c)
      ∧ (Instr.decode = .decode → ({ State.reset with phase := .busy, wcnt := 12 } : State).unkseen = false)
      ∧ (∃ t, exec .decode { State.reset with phase := .busy, wcnt := 12 } = .next t)
      ∧ ∃ t, exec .encode { State.reset with phase := .busy } = .next t :=
  ⟨fun _ h => (nomatch h), fun _ h => (nomatch h), fun _ => rfl, ⟨_, rfl⟩, ⟨_, rfl⟩⟩

/-- StepRunsThePresentedAccess: a read in IDLE and a dropped write in BUSY. -/
theorem test_witness_StepRunsThePresentedAccess :
    Sys2Proof.decode (.bus (busWord false 0x003 0)) = .ok (.rd 0x003)
      ∧ ({ State.reset with host := [.access (busWord false 0x003 0), .quiet] } : State).phase ≠ .busy
      ∧ Sys2Proof.decode (.bus (busWord true 0x010 0x55)) = .ok (.epush 0x55)
      ∧ ∃ t, exec (.epush 0x55) { State.reset with phase := .busy, host := [] } = .next t :=
  ⟨by decide, by decide, by decide, _, rfl⟩

/-- StepCompletesTheLatchedCommand: each host, a word that decodes and an illegal one. -/
theorem test_witness_StepCompletesTheLatchedCommand :
    ({ State.reset with phase := .busy, wait := some 0 } : State).wait = some 0 ∧ State.reset.host = []
      ∧ ({ State.reset with host := [.quiet, .wait] } : State).host = .quiet :: [.wait]
      ∧ (∀ b rest, [hostRd 0x003, .quiet] ≠ .reset b :: rest)
      ∧ Sys2Proof.decode (.cmd ({ State.reset with phase := .busy, opc := 0x0107, wait := some 0 } : State).opc) = .ok (.clr 1)
      ∧ WellFormed.legalCmd ({ State.reset with phase := .busy, opc := 0x0008, wait := some 0 } : State).opc = false :=
  ⟨rfl, rfl, rfl, by simp [hostRd], by decide, by decide⟩

/-- WaitPollsStatus: in IDLE and in BUSY. -/
theorem test_witness_WaitPollsStatus :
    ({ State.reset with host := [.wait] } : State).host = .wait :: [] ∧ State.reset.phase ≠ .busy
      ∧ ({ State.reset with phase := .busy, host := [.wait] } : State).phase = .busy := by decide

/-- CommandCompletesWhenTheOraclesAnswer at wait 0 and wait 3; CommandHangsWhenAnOracleNeverAnswers. -/
theorem test_witness_waits :
    ({ State.reset with phase := .busy, wait := some 0 } : State).wait = some 0
      ∧ ({ State.reset with phase := .busy, wait := some 3, host := [hostPushe 1] } : State).wait = some 3
      ∧ NoReset { State.reset with phase := .busy, wait := some 3, host := [hostPushe 1] }
      ∧ ({ State.reset with phase := .busy, wait := none, host := [.wait] } : State).wait = none
      ∧ NoReset { State.reset with phase := .busy, wait := none, host := [.wait] } :=
  ⟨rfl, rfl, by simp [NoReset, hostPushe, hostWr], rfl, by simp [NoReset]⟩

/-- CommandWordsHaveNoIgnoredBits: the largest legal word. -/
theorem test_witness_CommandWordsHaveNoIgnoredBits : decodeCmd 0x0F07 = .ok (.clr 15) := by decide

/-- ConstructorsSetTheChecksumLength: each of the three constructors, succeeding. -/
theorem test_witness_ConstructorsSetTheChecksumLength :
    (∃ t, exec .loade { State.reset with phase := .busy, elen := 16 } = .next t ∧ t.err = 0)
      ∧ (∃ t, exec .rande { State.reset with phase := .busy } = .next t ∧ t.err = 0)
      ∧ ∃ t, exec .decode { State.reset with phase := .busy, wcnt := 24 } = .next t ∧ t.err = 0 :=
  ⟨⟨_, rfl, by decide +kernel⟩, ⟨_, rfl, by decide +kernel⟩, ⟨_, rfl, by decide +kernel⟩⟩

/-- WordCountsMatchTheEntropyLength: ENCODE and DECODE, succeeding. -/
theorem test_witness_WordCountsMatchTheEntropyLength :
    (∃ t, exec .encode { State.reset with phase := .busy, evalid := true, elen := 32, cslen := 8 } = .next t ∧ t.err = 0)
      ∧ ∃ t, exec .decode { State.reset with phase := .busy, wcnt := 12 } = .next t ∧ t.err = 0 :=
  ⟨⟨_, rfl, by decide +kernel⟩, ⟨_, rfl, by decide +kernel⟩⟩

/-- UnpackInvertsIndices: the shortest and the longest entropy. -/
theorem test_witness_UnpackInvertsIndices :
    (List.replicate 16 (0 : Byte)).length ∈ [16, 20, 24, 28, 32] ∧ (List.replicate 32 (0 : Byte)).length ∈ [16, 20, 24, 28, 32] := by
  decide

/-- VerifyAgreesWithStrictDecode: a legal word count and an illegal one. -/
theorem test_witness_VerifyAgreesWithStrictDecode :
    ∀ w ∈ [(12 : Byte), 13],
      let s : State := { State.reset with phase := .busy, wcnt := w }
      s.phase = .busy ∧ s.err = 0 ∧ s.dvalid = false ∧ ∃ p q u v, exec .decode { s with strict := false } = .next p
        ∧ exec (.cmdwr 0x0005) p = .next q ∧ exec .verify q = .next u ∧ exec .decode { s with strict := true } = .next v :=
  fun _ _ => ⟨rfl, rfl, rfl, _, _, _, _, rfl, rfl, rfl, rfl⟩

/-- A state with a Mnemonic instance and its encoding: sixteen zero bytes, ENCODE done. Its CSUM is the digest's, whatever it is. -/
def encoded : State :=
  let e : List Byte := List.replicate 16 0
  { State.reset with
    elen := 16, cslen := 4, csum := BitVec.ofNat 8 (checksum Config.sha256 e).2, evalid := true
    idx := fill 24 (indices Config.sha256 e), wcnt := 12, ivalid := true, done := true }

theorem entropyOf_encoded : entropyOf encoded = List.replicate 16 0 := by
  rw [entropyOf_eq_take _ (by decide)]
  decide +kernel

theorem length_indices_encoded : (indices Config.sha256 (List.replicate 16 0)).length = 12 := by
  simp [indices, packed]

theorem checksum_encoded : (checksum Config.sha256 (List.replicate 16 0)).2 < 16 := checksum_lt _ _ (by simp)

/-- The premise of EveryStepKeepsTheInvariants, FaultIsUnreachable, DecodeAfterEncodeRecoversTheEntropy and of OracleTrafficOfEachCommand's
last clause, met by a state that holds a valid entropy and its encoding. -/
theorem stateInv_encoded : StateInv encoded where
  entropyValid _ := ⟨by decide, by decide, by
    rw [entropyOf_encoded]
    have := checksum_encoded
    show (BitVec.ofNat 8 _).toNat = _
    rw [BitVec.toNat_ofNat, Nat.mod_eq_of_lt (by omega)]⟩
  entropyInvalid h := nomatch h
  stripWithoutEntropy h := nomatch h
  entTail _ _ := getD_replicate_zero _ _
  idxTail i hi := by
    have hi' : 12 ≤ i := hi
    show (fill 24 _).getD i 0 = 0
    by_cases h : i < 24
    · rw [getD_fill _ _ _ h, List.getD_eq_default _ _ (by rw [length_indices_encoded]; exact hi')]
    · exact getD_of_le _ _ (by omega)
  indicesValid _ := ⟨rfl, rfl, by rw [entropyOf_encoded, length_indices_encoded]; rfl, by
    rw [entropyOf_encoded]
    have h := take_toList_fill 24 (indices Config.sha256 (List.replicate 16 0)) (by rw [length_indices_encoded]; decide)
    rwa [length_indices_encoded] at h⟩
  stripValid h := nomatch h
  stripInvalid _ := ⟨rfl, rfl⟩
  seedValid h := nomatch h
  seedInvalid _ := rfl
  passTail _ _ := list_getD_replicate_zero _ _
  passSize := by decide +kernel
  plenBound := by decide +kernel
  overflowFull h := nomatch h
  unknownRecord _ := rfl
  errorDetail _ := rfl
  errorCode := by decide
  fatalCode := by decide
  langCode := by decide
  inFlight h := nomatch h
  acceptedConstructor h := nomatch h
  acceptedEncode h := nomatch h
  acceptedSeed h := nomatch h

/-- EveryStepKeepsTheInvariants and FaultIsUnreachable: the state above under a push, which leaves IDLE's work to do. -/
theorem test_witness_EveryStepKeepsTheInvariants :
    StateInv { encoded with host := [hostPushe 1] } ∧ encoded.phase ≠ .fault ∧ ∃ t, step { encoded with host := [hostPushe 1] } = .next t :=
  ⟨stateInv_host_fields stateInv_encoded _ _ _ _, by decide, _, rfl⟩

/-- DecodeAfterEncodeRecoversTheEntropy. -/
theorem test_witness_DecodeAfterEncodeRecoversTheEntropy :
    CleanIdle encoded ∧ encoded.ivalid = true ∧ ∃ t u, exec (.cmdwr 0x0004) encoded = .next t ∧ exec .decode t = .next u :=
  ⟨⟨rfl, stateInv_encoded⟩, rfl, _, _, rfl, rfl⟩

/-- OracleTrafficOfEachCommand: SEED's request is issued in the state above. -/
theorem test_witness_OracleTrafficOfEachCommand :
    StateInv encoded ∧ oracleRequests .seed encoded = [.kdf (entropyOf encoded) (saltOf encoded) 2048 64] :=
  ⟨stateInv_encoded, rfl⟩

/-! ## Witnesses for the driver's statements: a wordlist and a splitter -/

/-- Words of letters: the English word 0 is "abandon", any other word a run of one letter as long as its index asks. -/
def someWords : Wordlists := fun g i =>
  if g = .english ∧ i = 0 then ['a', 'b', 'a', 'n', 'd', 'o', 'n'] else List.replicate (i.toNat + 1) 'z'

/-- White space: the two characters R208 names. -/
def someSpace (c : Char) : Bool := c == Char.ofNat 0x0020 || c == Char.ofNat 0x3000

/-- A splitter that drops empty words. -/
def someSplit (text : List Char) : List WordText := (text.splitOnP someSpace).filter fun w => !w.isEmpty

theorem test_witness_wordlists : WordlistsOk someWords where
  unique g i j h := by
    unfold someWords at h
    have hz : ∀ n, ['a', 'b', 'a', 'n', 'd', 'o', 'n'] ≠ List.replicate (n + 1) 'z' := fun n hn => by
      rw [List.replicate_succ] at hn
      exact absurd (List.cons.inj hn).1 (by decide)
    split at h <;> split at h
    · simp_all
    · exact absurd h (hz _)
    · exact absurd h.symm (hz _)
    · exact BitVec.eq_of_toNat_eq (by simpa using congrArg List.length h)
  abandon := by decide

/-- SentenceRoundTrip: the words hold no white space. -/
theorem test_witness_words_hold_no_space (g : Language) (i : Idx) :
    someWords g i ≠ [] ∧ ∀ c ∈ someWords g i, someSpace c = false := by
  unfold someWords
  split
  · exact ⟨by simp, by simp [someSpace]⟩
  · refine ⟨by simp, fun c hc => ?_⟩
    rw [List.eq_of_mem_replicate hc]
    decide

/-- SentenceRoundTrip: the splitter is one R208 allows, white space being the two characters it names. -/
theorem test_witness_splitter : SplitterOk someSpace someSplit where
  space := by decide
  ideographicSpace := by decide
  empty := by decide
  splits w rest hv hp := by
    have hne : ∀ v ∈ w :: rest.map Prod.snd, (!v.isEmpty) = true := fun v h => by simpa using (hv v h).1
    have hw := fun v h => (hv v h).2
    clear hv
    unfold someSplit
    induction rest generalizing w with
    | nil =>
      rw [List.flatMap_nil, List.append_nil, List.splitOnP_eq_singleton (hw w (by simp))]
      simpa using hne w (by simp)
    | cons p rest ih =>
      have tail : ∀ v ∈ p.2 :: rest.map Prod.snd, v ∈ w :: (p :: rest).map Prod.snd := fun v h => List.mem_cons_of_mem _ h
      rw [List.flatMap_cons, List.cons_append, List.splitOnP_append_cons_of_forall_mem (hw w (by simp)) _ (hp p (by simp)),
        List.filter_cons_of_pos (p := fun w : WordText => !w.isEmpty) (hne w (by simp)),
        ih p.2 (fun q h => hp q (List.mem_cons_of_mem _ h)) (fun v h => hne v (tail v h)) (fun v h => hw v (tail v h))]
      rfl

/-- A splitter splits at a mixture of its white-space characters. -/
theorem test_splitter_mixes_separators :
    someSplit ['a', Char.ofNat 0x3000, 'b', Char.ofNat 0x0020, 'c'] = [['a'], ['b'], ['c']] := by decide +kernel

/-- UnknownWordNamesTheWordAndLanguage: a Japanese sentence whose sixth word is unknown. -/
theorem test_witness_UnknownWordNamesTheWordAndLanguage :
    let s : State := { State.reset with phase := .busy, wcnt := 7, lang := 7, unkseen := true, unkpos := 5 }
    s.phase = .busy ∧ s.unkseen = true ∧ s.lang = languageCode .japanese ∧ ∃ t, exec .decode s = .next t :=
  ⟨rfl, rfl, rfl, _, rfl⟩

/-- WaitingHostNeverWritesWhileBusy: a program that waits; and, for the second clause, a host that reads STATUS and then writes. -/
theorem test_witness_WaitingHostNeverWritesWhileBusy :
    State.reset.phase ≠ .busy ∧ waitsForCommands false [hostCmd 1, hostRd 0x003, .wait, hostAck] = true
      ∧ writesAfterIdle false (observed 2 { State.reset with host := [hostRd 0x003, hostAck] }) = true
      ∧ ∃ t, Sys2Proof.core.run 1 { State.reset with host := [hostRd 0x003, hostAck] } = .next t ∧ isWrite (presented t) = true :=
  ⟨by decide, by decide, by decide +kernel, _, rfl, by decide +kernel⟩

/-- A state after a permissive DECODE of twelve zero indices and a SEED: its entropy, its strip result and its seed are valid. CSUM, CSOK and SEED
are what the oracles give, whatever that is. -/
def stripped : State :=
  let e : List Byte := List.replicate 16 0
  { State.reset with
    elen := 16, cslen := 4, csum := BitVec.ofNat 8 (checksum Config.sha256 e).2, evalid := true, wcnt := 12
    csok := (checksum Config.sha256 e).2 == 0, dvalid := true
    seed := Config.pbkdf2 e saltPrefix 2048 64, svalid := true, done := true }

theorem entropyOf_stripped : entropyOf stripped = List.replicate 16 0 := by
  rw [entropyOf_eq_take _ (by decide)]
  decide +kernel

theorem unpackHeld_stripped : unpackHeld stripped = some ⟨List.replicate 16 0, 4, 0⟩ := by decide +kernel

theorem stateInv_stripped : StateInv stripped where
  entropyValid _ := ⟨by decide, by decide, by
    rw [entropyOf_stripped]
    have := checksum_encoded
    show (BitVec.ofNat 8 _).toNat = _
    rw [BitVec.toNat_ofNat, Nat.mod_eq_of_lt (by omega)]⟩
  entropyInvalid h := nomatch h
  stripWithoutEntropy h := nomatch h
  entTail _ _ := getD_replicate_zero _ _
  idxTail _ _ := getD_replicate_zero _ _
  indicesValid h := nomatch h
  stripValid _ := ⟨rfl, _, unpackHeld_stripped, rfl, rfl, fun _ => entropyOf_stripped⟩
  stripInvalid h := nomatch h
  seedValid _ := ⟨rfl, rfl, by
    have hs : saltOf stripped = saltPrefix := rfl
    rw [entropyOf_stripped, hs]
    rfl⟩
  seedInvalid h := nomatch h
  passTail _ _ := list_getD_replicate_zero _ _
  passSize := by decide +kernel
  plenBound := by decide +kernel
  overflowFull h := nomatch h
  unknownRecord _ := rfl
  errorDetail _ := rfl
  errorCode := by decide
  fatalCode := by decide
  langCode := by decide
  inFlight h := nomatch h
  acceptedConstructor h := nomatch h
  acceptedEncode h := nomatch h
  acceptedSeed h := nomatch h

/-- CheckedResultsAreTrue, each clause: a clean idle state in which the host reads an entropy, a checksum, an encoding and its sentence with
their flags set, in the language selected, and one in which it reads a strip result and a seed with theirs. -/
theorem test_witness_CheckedResultsAreTrue :
    (CleanIdle encoded ∧ (checkedEntropy encoded).2 = some (readEntropy encoded)
        ∧ (checkedChecksum encoded).2 = some (readChecksum encoded) ∧ (checkedIndices encoded).2 = some (readIndices encoded)
        ∧ encoded.lang = languageCode .english
        ∧ (checkedSentence someWords .english encoded).2 = some (readSentence someWords .english encoded))
      ∧ CleanIdle stripped ∧ (checkedStrip stripped).2 = some (readStrip stripped)
      ∧ (checkedSeed stripped).2 = some (readSeed stripped) :=
  ⟨⟨⟨rfl, stateInv_encoded⟩, rfl, rfl, rfl, rfl, rfl⟩, ⟨rfl, stateInv_stripped⟩,
    by rw [checkedStrip, checkedRead, regRead_status, (statusWord_validity stripped).2.2.1]; rfl,
    by rw [checkedSeed, checkedRead, regRead_status, (statusWord_validity stripped).2.2.2.2]; rfl⟩

end Sys2Proof.Tests
end

section
/-! PROOFS. The effect of each instruction apart from its phase, an equation per case of each effect, and the writes to one group of
registers that keep the invariants of 10_state.md R53. -/

namespace Sys2Proof.Machine

/-! ## The effects of the instructions, apart from the phase they act in -/

/-- What a command's completion does in BUSY. -/
def completionEffect : Instr → State → State
  | .nop => finish
  | .loade => Sys2Proof.Machine.loade Config.sha256
  | .rande => fun s => Sys2Proof.Machine.rande Config.sha256 (Config.rngDraw s.fresh) { s with fresh := s.fresh + 1 }
  | .encode => encodeHeld
  | .decode => decodeHeld Config.sha256
  | .verify => verifyHeld
  | .seed => deriveSeed Config.pbkdf2
  | .clr m => fun s => finish (clearGroups m s)
  | .wrctrl _ _ | .cmdwr _ | .ack _ | .wrlang _ | .epush _ | .ipush _ _ | .ppush _ | .rd _ => id

/-- What a host write does in IDLE. -/
def writeEffect : Instr → State → State
  | .wrctrl ie strict => fun s => { s with strict := strict, ie := ie }
  | .cmdwr w => accept w
  | .ack a => fun s => if a then { s with done := false } else s
  | .wrlang code => fun s => if code.toNat ≤ 9 then { s with lang := code } else s
  | .epush b => pushEntropy b
  | .ipush unk n => pushIndex unk n
  | .ppush b => pushPass b
  | .nop | .loade | .rande | .encode | .decode | .verify | .seed | .clr _ | .rd _ => id

/-- A command is its effect, in BUSY only. -/
theorem exec_command {i : Instr} (hi : isCommand i = true) (s : State) :
    exec i s = atCompletion s (completionEffect i) := by
  cases i <;> cases hi <;> rfl

/-- A host transaction other than RD is its effect, in IDLE only. -/
theorem exec_write {i : Instr} (hi : isCommand i = false) (hr : ∀ rn, i ≠ .rd rn) (s : State) :
    exec i s = hostWrite s (writeEffect i) := by
  cases i
  case rd rn => exact absurd rfl (hr rn)
  all_goals cases hi <;> rfl

theorem isCommand_of_decodeCmd {w : CmdWord} {i : Instr} (h : decodeCmd w = .ok i) : isCommand i = true := by
  rcases decodeCmd_ok_cases h with rfl | rfl | rfl | rfl | rfl | rfl | rfl | rfl <;> rfl

theorem isCommand_of_decodeBus {b : BusWord} {i : Instr} (h : decodeBus b = .ok i) : isCommand i = false := by
  rcases decodeBus_ok_cases h with ⟨_, _, rfl⟩ | ⟨_, rfl⟩ | ⟨_, rfl⟩ | ⟨_, rfl⟩ | ⟨_, rfl⟩ | ⟨_, _, rfl⟩ | ⟨_, rfl⟩ | ⟨_, rfl⟩ <;> rfl

/-- What the completion of the latched word does in BUSY. -/
def latchedEffect (s : State) : State :=
  match decodeCmd s.opc with
  | .ok i => completionEffect i s
  | .error _ => failWith (.illegalCommand s.opc) s

theorem completeLatched_busy {s : State} (hb : s.phase = .busy) : completeLatched s = .next (latchedEffect s) := by
  cases hd : decodeCmd s.opc with
  | ok i => rw [completeLatched_ok hd, exec_command (isCommand_of_decodeCmd hd), atCompletion_busy _ hb, latchedEffect, hd]
  | error r => rw [completeLatched_error hd hb, latchedEffect, hd]

/-! ## The cases of each completion (41_entropy_commands.md to 44_housekeeping_commands.md) -/

theorem loade_of_legal {sha : List Byte → Digest} {s : State} (h : (tripleOfElen s.elen.toNat).isSome = true) :
    loade sha s = finish (setChecksum (checksum sha (entropyOf s)) s) := if_pos h

theorem loade_of_illegal {sha : List Byte → Digest} {s : State} (h : ¬ (tripleOfElen s.elen.toNat).isSome = true) :
    loade sha s = failWith (.invalidEntropyLength s.elen) s := if_neg h

theorem encodeHeld_of_no_entropy {s : State} (he : s.evalid = false) : encodeHeld s = failWith (.sequenceError 3) s := by
  simp [encodeHeld, he, raise]

theorem encodeHeld_of_count_mismatch {s : State} (he : s.evalid = true) (hc : countCheck s = false) :
    encodeHeld s
      = enterFault (.internalInvariantViolation (BitVec.ofNat 8 ((heldBits s).length / 11)) (expectedMs s)) s := by
  simp [encodeHeld, he, hc, raise]

theorem encodeHeld_of_count_ok {s : State} (he : s.evalid = true) (hc : countCheck s = true) :
    encodeHeld s = finish
      { s with
        idx := fill 24 (groups (heldBits s)), wcnt := BitVec.ofNat 8 ((heldBits s).length / 11),
        unkseen := false, unkpos := 0, ivalid := true } := by
  simp [encodeHeld, he, hc]

theorem decodeHeld_of_unknown {sha : List Byte → Digest} {s : State} (h : s.unkseen = true) :
    decodeHeld sha s = failWith (.unknownWord s.unkpos s.lang) s := by
  simp [decodeHeld, h, raise]

theorem decodeHeld_of_bad_count {sha : List Byte → Digest} {s : State} (h : s.unkseen = false) (hu : unpackHeld s = none) :
    decodeHeld sha s = failWith (.invalidSentenceLength s.wcnt) s := by
  simp [decodeHeld, h, hu, raise]

theorem decodeHeld_of_unpacked {sha : List Byte → Digest} {s : State} {u : Unpacked} (h : s.unkseen = false)
    (hu : unpackHeld s = some u) : decodeHeld sha s = strip u (checksum sha u.ent) s := by
  simp [decodeHeld, h, hu]

theorem strip_of_mismatch {u : Unpacked} {k : Nat × Nat} {s : State} (h : s.strict = true ∧ k.2 ≠ u.x) :
    strip u k s
      = failWith (.checksumMismatch (BitVec.ofNat 8 u.x) (BitVec.ofNat 8 k.2))
          { s with ecs := BitVec.ofNat 8 u.x, csok := k.2 == u.x, dvalid := true } := by
  simp [strip, h, raise]

theorem strip_of_accepted {u : Unpacked} {k : Nat × Nat} {s : State} (h : ¬ (s.strict = true ∧ k.2 ≠ u.x)) :
    strip u k s
      = finish (setChecksum k
          { s with
            ecs := BitVec.ofNat 8 u.x, csok := k.2 == u.x, dvalid := true
            ent := fill 32 u.ent, elen := BitVec.ofNat 8 u.ent.length }) := by
  simp only [strip, if_neg h]

theorem verifyHeld_of_no_strip {s : State} (h : s.dvalid = false) : verifyHeld s = failWith (.sequenceError 5) s := by
  simp [verifyHeld, h, raise]

theorem verifyHeld_of_mismatch {s : State} (h : s.dvalid = true) (hc : s.csok = false) :
    verifyHeld s = failWith (.checksumMismatch s.ecs s.csum) s := by
  simp [verifyHeld, h, hc, raise]

theorem verifyHeld_of_match {s : State} (h : s.dvalid = true) (hc : s.csok = true) : verifyHeld s = finish s := by
  simp [verifyHeld, h, hc]

theorem deriveSeed_of_no_entropy {kdf : List Byte → List Byte → Nat → (n : Nat) → Vector Byte n} {s : State}
    (h : s.evalid = false) : deriveSeed kdf s = failWith (.sequenceError 6) s := by
  simp [deriveSeed, h, raise]

theorem deriveSeed_of_overflow {kdf : List Byte → List Byte → Nat → (n : Nat) → Vector Byte n} {s : State}
    (h : s.evalid = true) (hp : s.povf = true) : deriveSeed kdf s = failWith (.passphraseOverflow s.plen) s := by
  simp [deriveSeed, h, hp, raise]

theorem deriveSeed_of_ready {kdf : List Byte → List Byte → Nat → (n : Nat) → Vector Byte n} {s : State}
    (h : s.evalid = true) (hp : s.povf = false) :
    deriveSeed kdf s = finish { s with seed := kdf (entropyOf s) (saltOf s) 2048 64, svalid := true } := by
  simp [deriveSeed, h, hp]

theorem pushPass_of_room {b : Byte} {s : State} (h : s.plen.toNat < passMax s) :
    pushPass b s = invalidateS { s with pass := s.pass.set s.plen.toNat b, plen := s.plen + 1 } := by rw [pushPass, if_pos h]

theorem pushPass_of_full {b : Byte} {s : State} (h : ¬ s.plen.toNat < passMax s) :
    pushPass b s = invalidateS { s with povf := true } := by rw [pushPass, if_neg h]

/-- Acceptance of a legal word, with its wait. -/
theorem accept_of_ok {w : CmdWord} {i : Instr} (h : decodeCmd w = .ok i) (s : State) :
    accept w s =
      let s1 := { s with opc := w, phase := .busy, err := 0, errinfo := 0, done := false, fresh := s.fresh + 1 }
      { acceptInvalidate i s1 with wait := waitFor (oracleRequests i (acceptInvalidate i s1) != []) s.fresh } := by
  unfold accept
  rw [h]

/-- A filled register file holds zeros past the list it was filled with. -/
theorem getD_fill_tail {w : Nat} (n : Nat) {l : List (BitVec w)} {i : Nat} (h : l.length ≤ i) : (fill n l).getD i 0 = 0 := by
  by_cases hi : i < n
  · rw [getD_fill n l i hi, List.getD_eq_default l 0 h]
  · exact getD_of_le _ i (not_lt.mp hi)

/-! ## The invariants and writes to one group of registers (10_state.md R52, R53)

Each lemma takes the flags that invalidating a group has cleared, and shows only the clauses that the write concerns. -/

/-- Without a valid entropy ENT and ELEN may be anything with zeros past the end. -/
theorem stateInv_replaceEntropy {s : State} (h : StateInv s) (he : s.evalid = false) (v : Vector Byte 32) (n : Byte)
    (hv : ∀ j, min n.toNat 32 ≤ j → v.getD j 0 = 0) : StateInv { s with ent := v, elen := n } := by
  obtain ⟨-, -, hi, hs⟩ := h.entropyInvalid he
  exact
    { h with
      entropyValid := by simp [he]
      entTail := hv
      indicesValid := by simp [hi]
      stripValid := fun hd => by
        obtain ⟨hk, u, hu, hx, hc, -⟩ := h.stripValid hd
        exact ⟨hk, u, hu, hx, hc, by simp [he]⟩
      seedValid := by simp [hs] }

/-- Without a valid encoding or strip result IDX and WCNT may be anything with zeros past the end. -/
theorem stateInv_replaceIndices {s : State} (h : StateInv s) (hi : s.ivalid = false) (hd : s.dvalid = false)
    (v : Vector Idx 24) (n : Byte) (seen : Bool) (pos : Byte) (hv : ∀ i, min n.toNat 24 ≤ i → v.getD i 0 = 0)
    (hk : seen = false → pos = 0) : StateInv { s with idx := v, wcnt := n, unkseen := seen, unkpos := pos } :=
  { h with
    idxTail := hv
    indicesValid := by simp [hi]
    stripValid := by simp [hd]
    unknownRecord := hk }

/-- Without a valid seed PASS may be rewritten, keeping its size. -/
theorem stateInv_replacePass {s : State} (h : StateInv s) (hs : s.svalid = false) (p : List Byte) (n : BitVec 9) (o : Bool)
    (hsize : p.length = s.pass.length) (hp : ∀ i, n.toNat ≤ i → p.getD i 0 = 0) (hn : n.toNat ≤ p.length)
    (ho : o = true → n.toNat = p.length) : StateInv { s with pass := p, plen := n, povf := o } :=
  { h with
    seedValid := by simp [hs]
    passTail := hp
    passSize := hsize.trans_le h.passSize
    plenBound := hn
    overflowFull := ho }

/-- In IDLE the entropy held becomes valid with its checksum (R131, R133, R145). -/
theorem stateInv_setChecksum {s : State} (h : StateInv s) (hp : s.phase = .idle) (he : s.evalid = false)
    (hd : s.dvalid = false) (hl : (tripleOfElen s.elen.toNat).isSome = true) :
    StateInv (setChecksum (checksum Config.sha256 (entropyOf s)) s) := by
  obtain ⟨-, -, hi, hs⟩ := h.entropyInvalid he
  have hlen : s.elen.toNat ≤ 32 := by
    have hm := (tripleOfElen_isSome_iff _).mp hl
    simp only [List.mem_cons, List.not_mem_nil, or_false] at hm
    omega
  have hc := checksum_lt Config.sha256 (entropyOf s) (by simpa using hlen)
  have h8 : 2 ^ ((entropyOf s).length / 4) ≤ 2 ^ 8 := Nat.pow_le_pow_right (by decide) (by simp; omega)
  exact
    { h with
      entropyValid := fun _ => by
        refine ⟨hl, ?_, ?_⟩
        · simp only [setChecksum_cslen, setChecksum_elen, checksum_fst, length_entropyOf, BitVec.toNat_ofNat]
          omega
        · rw [setChecksum_csum, BitVec.toNat_ofNat, Nat.mod_eq_of_lt (hc.trans_le h8)]
          rfl
      entropyInvalid := by simp
      stripWithoutEntropy := by simp
      indicesValid := by simp [hi]
      stripValid := by simp [hd]
      seedValid := by simp [hs]
      acceptedConstructor := by simp [hp] }

/-- In IDLE the result of a strip of the indices held is recorded (R145, R147). -/
theorem stateInv_setStrip {s : State} (h : StateInv s) (hp : s.phase = .idle) (hk : s.unkseen = false) {u : Unpacked}
    (hu : unpackHeld s = some u) (he : s.evalid = true → entropyOf s = u.ent)
    (hc : s.evalid = false → (checksum Config.sha256 u.ent).2 ≠ u.x) :
    StateInv { s with ecs := BitVec.ofNat 8 u.x, csok := (checksum Config.sha256 u.ent).2 == u.x, dvalid := true } := by
  obtain ⟨hm, -, -, hx⟩ := unpackHeld_sizes hu
  simp only [List.mem_cons, List.not_mem_nil, or_false] at hm
  have h8 : 2 ^ (s.wcnt.toNat / 3) ≤ 2 ^ 8 := Nat.pow_le_pow_right (by decide) (by omega)
  exact
    { h with
      stripWithoutEntropy := fun hv _ => by simpa using hc hv
      stripValid := fun _ => ⟨hk, u, hu, by rw [BitVec.toNat_ofNat, Nat.mod_eq_of_lt (hx.trans_le h8)], rfl, he⟩
      stripInvalid := by simp
      acceptedConstructor := by simp [hp]
      acceptedEncode := by simp [hp] }

/-- In IDLE the packed indices of a valid entropy are recorded (R142). -/
theorem stateInv_setIndices {s : State} (h : StateInv s) (hp : s.phase = .idle) (he : s.evalid = true)
    (hd : s.dvalid = false) :
    StateInv
      { s with
        idx := fill 24 (groups (heldBits s)), wcnt := BitVec.ofNat 8 ((heldBits s).length / 11),
        unkseen := false, unkpos := 0, ivalid := true } := by
  obtain ⟨hl, hcs, hc⟩ := h.entropyValid he
  have hm := (tripleOfElen_isSome_iff _).mp hl
  have hbits : heldBits s
      = packed (entropyOf s) (checksum Config.sha256 (entropyOf s)).1 (checksum Config.sha256 (entropyOf s)).2 := by
    rw [heldBits, hcs, hc, checksum_fst, length_entropyOf]
  have hind : groups (heldBits s) = indices Config.sha256 (entropyOf s) := by rw [hbits, indices]
  have hn : (heldBits s).length / 11 ≤ 24 := by
    simp only [heldBits, packed, List.length_append, length_bitsOf, length_binFree, length_entropyOf, hcs]
    simp only [List.mem_cons, List.not_mem_nil, or_false] at hm
    omega
  have hw : (BitVec.ofNat 8 ((heldBits s).length / 11)).toNat = (groups (heldBits s)).length := by
    rw [BitVec.toNat_ofNat, length_groups]
    omega
  have hg : (groups (heldBits s)).length ≤ 24 := by rwa [length_groups]
  exact
    { h with
      entropyInvalid := by simp [he]
      idxTail := fun i hi => getD_fill_tail 24 (by rw [hw] at hi; omega)
      indicesValid := fun _ => by
        refine ⟨he, rfl, by rw [hw, hind]; rfl, ?_⟩
        simp only [indicesOf, hw]
        rw [take_toList_fill _ _ hg, hind]
        rfl
      stripValid := by simp [hd]
      unknownRecord := fun _ => rfl
      acceptedEncode := by simp [hp] }

/-- In IDLE the seed of a valid entropy and a passphrase that fits is recorded (R160). -/
theorem stateInv_setSeed {s : State} (h : StateInv s) (hp : s.phase = .idle) (he : s.evalid = true) (ho : s.povf = false) :
    StateInv { s with seed := Config.pbkdf2 (entropyOf s) (saltOf s) 2048 64, svalid := true } :=
  { h with
    entropyInvalid := by simp [he]
    seedValid := fun _ => ⟨he, ho, rfl⟩
    seedInvalid := by simp
    acceptedSeed := by simp [hp] }

/-- DONE means nothing to the invariants outside BUSY. -/
theorem stateInv_setDone {s : State} (h : StateInv s) (hp : s.phase ≠ .busy) (d : Bool) : StateInv { s with done := d } :=
  { h with inFlight := fun hb => absurd hb hp }

end Sys2Proof.Machine
end

section
/-! PROOFS. Every step keeps the invariants of 10_state.md R53: reset, the completions, and the host's accesses. -/

namespace Sys2Proof.Machine

/-! ## The invariants and reset (10_state.md R57, 70_reset_and_hazards.md R250) -/

/-- Every register at its reset value, for every PASS_MAX. -/
theorem stateInv_reset_pass {n : Nat} (hn : n ≤ 511) : StateInv { State.reset with pass := List.replicate n 0 } where
  entropyValid h := nomatch h
  entropyInvalid _ := ⟨rfl, rfl, rfl, rfl⟩
  stripWithoutEntropy _ h := nomatch h
  entTail _ _ := getD_replicate_zero _ _
  idxTail _ _ := getD_replicate_zero _ _
  indicesValid h := nomatch h
  stripValid h := nomatch h
  stripInvalid _ := ⟨rfl, rfl⟩
  seedValid h := nomatch h
  seedInvalid _ := rfl
  passTail _ _ := list_getD_replicate_zero _ _
  passSize := by simpa [passMax] using hn
  plenBound := Nat.zero_le _
  overflowFull h := nomatch h
  unknownRecord _ := rfl
  errorDetail _ := rfl
  errorCode := Nat.zero_le _
  fatalCode := by simp
  langCode := Nat.zero_le _
  inFlight h := nomatch h
  acceptedConstructor h := nomatch h
  acceptedEncode h := nomatch h
  acceptedSeed h := nomatch h

theorem stateInv_resetBlock {s : State} (h : StateInv s) : StateInv (resetBlock s) :=
  stateInv_host_fields (stateInv_reset_pass h.passSize) _ _ _ _

theorem stateInv_resetEdge {s : State} (h : StateInv s) (b : Option BusWord) : StateInv (resetEdge b s) := by
  cases b with
  | none => exact stateInv_resetBlock h
  | some w =>
    simp only [resetEdge]
    split
    · exact stateInv_resetBlock h
    · exact stateInv_host_fields (stateInv_resetBlock h) _ _ _ _

/-- The fatal error (R236). -/
theorem stateInv_enterFault {s : State} (h : StateInv s) (n m : Byte) :
    StateInv (enterFault (.internalInvariantViolation n m) s) :=
  { stateInv_control (stateInv_host_fields (stateInv_reset_pass h.passSize) s.host s.rdata s.wait s.fresh)
      s.strict s.ie s.lang h.langCode with
    errorDetail := by simp [errCode]
    errorCode := by simp [errCode]
    fatalCode := by simp [errCode]
    inFlight := by simp
    acceptedConstructor := by simp
    acceptedEncode := by simp
    acceptedSeed := by simp }

/-! ## The invariants and the completions

A completion's last write is that of PHASE and DONE. Where it also writes a group, the group's write is taken to come after it, in IDLE, where
no invalidation of acceptance is asked for. -/

theorem stateInv_loade {s : State} (h : StateInv s) (hb : s.phase = .busy) (hi : decodeCmd s.opc = .ok .loade) :
    StateInv (loade Config.sha256 s) := by
  obtain ⟨he, hd⟩ := h.acceptedConstructor hb (.inl hi)
  by_cases hl : (tripleOfElen s.elen.toNat).isSome = true
  · rw [loade_of_legal hl]
    exact stateInv_setChecksum (stateInv_finish h hb) rfl he hd hl
  · rw [loade_of_illegal hl]
    exact stateInv_failWith h _ (by simp)

/-- With 32 bytes the entropy is the whole of ENT. -/
theorem entropyOf_of_full {s : State} (h : s.elen = 32) : entropyOf s = s.ent.toList := by
  rw [entropyOf_eq_take s (by simp [h]), h]
  exact List.take_of_length_le (by simp)

theorem stateInv_rande {s : State} (h : StateInv s) (hb : s.phase = .busy) (hi : decodeCmd s.opc = .ok .rande)
    (r : Vector Byte 32) (f : Nat) : StateInv (rande Config.sha256 r { s with fresh := f }) := by
  obtain ⟨he, hd⟩ := h.acceptedConstructor hb (.inr (.inl hi))
  have hfin := stateInv_host_fields (stateInv_finish h hb) s.host s.rdata s.wait f
  have hent := stateInv_replaceEntropy hfin he r 32 fun j hj => getD_of_le r j (by simpa using hj)
  have hset := stateInv_setChecksum hent rfl he hd (by rfl)
  rwa [entropyOf_of_full rfl] at hset

theorem stateInv_encodeHeld {s : State} (h : StateInv s) (hb : s.phase = .busy) (hi : decodeCmd s.opc = .ok .encode) :
    StateInv (encodeHeld s) := by
  obtain ⟨-, hd⟩ := h.acceptedEncode hb hi
  cases he : s.evalid
  · rw [encodeHeld_of_no_entropy he]
    exact stateInv_failWith h _ (by simp)
  · cases hc : countCheck s
    · rw [encodeHeld_of_count_mismatch he hc]
      exact stateInv_enterFault h _ _
    · rw [encodeHeld_of_count_ok he hc]
      exact stateInv_setIndices (stateInv_finish h hb) rfl he hd

/-- An entropy that fits ENT is read back from the registers it was stored in. -/
theorem entropyOf_fill {s : State} {e : List Byte} (hl : e.length ≤ 32) (hn : s.elen = BitVec.ofNat 8 e.length)
    (hv : s.ent = fill 32 e) : entropyOf s = e := by
  have hlen : s.elen.toNat = e.length := by rw [hn, BitVec.toNat_ofNat]; omega
  rw [entropyOf_eq_take s (by omega), hlen, hv, take_toList_fill _ _ hl]

theorem stateInv_strip {s : State} (h : StateInv s) (hb : s.phase = .busy) (hi : decodeCmd s.opc = .ok .decode)
    (hk : s.unkseen = false) {u : Unpacked} (hu : unpackHeld s = some u) :
    StateInv (strip u (checksum Config.sha256 u.ent) s) := by
  obtain ⟨he, hd⟩ := h.acceptedConstructor hb (.inr (.inr hi))
  have hfin := stateInv_finish h hb
  by_cases hm : s.strict = true ∧ (checksum Config.sha256 u.ent).2 ≠ u.x
  · rw [strip_of_mismatch hm]
    have hstrip : StateInv _ := stateInv_setStrip hfin rfl hk hu (by simp [he]) fun _ => hm.2
    exact stateInv_failWith hstrip (.checksumMismatch _ _) (by simp)
  · rw [strip_of_accepted hm]
    obtain ⟨hw, hul, -, -⟩ := unpackHeld_sizes hu
    simp only [List.mem_cons, List.not_mem_nil, or_false] at hw
    have hle : u.ent.length ≤ 32 := by omega
    have hlen : u.ent.length ∈ [16, 20, 24, 28, 32] := by
      simp only [List.mem_cons, List.not_mem_nil, or_false]
      omega
    have hn : (BitVec.ofNat 8 u.ent.length).toNat = u.ent.length := by rw [BitVec.toNat_ofNat]; omega
    have hent := stateInv_replaceEntropy hfin he (fill 32 u.ent) (BitVec.ofNat 8 u.ent.length) fun j hj =>
      getD_fill_tail 32 (by omega)
    have hset := stateInv_setChecksum hent rfl he hd ((tripleOfElen_isSome_iff _).mpr (by simpa only [hn] using hlen))
    rw [entropyOf_fill hle rfl rfl] at hset
    exact stateInv_setStrip hset rfl hk hu (fun _ => entropyOf_fill hle rfl rfl) (by simp)

theorem stateInv_decodeHeld {s : State} (h : StateInv s) (hb : s.phase = .busy) (hi : decodeCmd s.opc = .ok .decode) :
    StateInv (decodeHeld Config.sha256 s) := by
  cases hk : s.unkseen
  · cases hu : unpackHeld s with
    | none =>
      rw [decodeHeld_of_bad_count hk hu]
      exact stateInv_failWith h _ (by simp)
    | some u =>
      rw [decodeHeld_of_unpacked hk hu]
      exact stateInv_strip h hb hi hk hu
  · rw [decodeHeld_of_unknown hk]
    exact stateInv_failWith h _ (by simp)

theorem stateInv_verifyHeld {s : State} (h : StateInv s) (hb : s.phase = .busy) : StateInv (verifyHeld s) := by
  cases hd : s.dvalid
  · rw [verifyHeld_of_no_strip hd]
    exact stateInv_failWith h _ (by simp)
  · cases hc : s.csok
    · rw [verifyHeld_of_mismatch hd hc]
      exact stateInv_failWith h _ (by simp)
    · rw [verifyHeld_of_match hd hc]
      exact stateInv_finish h hb

theorem stateInv_deriveSeed {s : State} (h : StateInv s) (hb : s.phase = .busy) : StateInv (deriveSeed Config.pbkdf2 s) := by
  cases he : s.evalid
  · rw [deriveSeed_of_no_entropy he]
    exact stateInv_failWith h _ (by simp)
  · cases ho : s.povf
    · rw [deriveSeed_of_ready he ho]
      exact stateInv_setSeed (stateInv_finish h hb) rfl he ho
    · rw [deriveSeed_of_overflow he ho]
      exact stateInv_failWith h _ (by simp)

theorem stateInv_clearE {s : State} (h : StateInv s) : StateInv (clearE s) :=
  stateInv_replaceEntropy (stateInv_invalidateE h) rfl _ 0 fun _ _ => getD_replicate_zero _ _

theorem stateInv_clearI {s : State} (h : StateInv s) : StateInv (clearI s) :=
  stateInv_replaceIndices (stateInv_invalidateDI h) rfl rfl _ 0 false 0 (fun _ _ => getD_replicate_zero _ _) fun _ => rfl

theorem stateInv_clearP {s : State} (h : StateInv s) : StateInv (clearP s) :=
  stateInv_replacePass (stateInv_invalidateS h) rfl _ 0 false List.length_replicate
    (fun _ _ => list_getD_replicate_zero _ _) (Nat.zero_le _) nofun

/-- A conditional update keeps the invariants when the update does. -/
theorem stateInv_ite {s : State} (h : StateInv s) (c : Bool) {f : State → State} (hf : StateInv (f s)) :
    StateInv (if c then f s else s) := by cases c <;> assumption

theorem stateInv_clearGroups {s : State} (h : StateInv s) (m : BitVec 4) : StateInv (clearGroups m s) := by
  have hE := stateInv_ite h (m.getLsbD 0) (stateInv_clearE h)
  have hI := stateInv_ite hE (m.getLsbD 1) (stateInv_clearI hE)
  have hP := stateInv_ite hI (m.getLsbD 2) (stateInv_clearP hI)
  exact stateInv_ite hP (m.getLsbD 3) (stateInv_invalidateS hP)

theorem clearGroups_phase (m : BitVec 4) (s : State) : (clearGroups m s).phase = s.phase := by
  simp only [clearGroups, apply_ite State.phase, clearE_phase, clearI_phase, clearP_phase, invalidateS_phase, ite_self]

/-- The completion of the latched word: each command finds its group as acceptance left it. -/
theorem stateInv_latchedEffect {s : State} (h : StateInv s) (hb : s.phase = .busy) : StateInv (latchedEffect s) := by
  cases hd : decodeCmd s.opc with
  | error r =>
    rw [latchedEffect, hd]
    exact stateInv_failWith h (.illegalCommand s.opc) (by simp)
  | ok i =>
    rw [latchedEffect, hd]
    rcases decodeCmd_ok_cases hd with rfl | rfl | rfl | rfl | rfl | rfl | rfl | rfl
    case inl => exact stateInv_finish h hb
    case inr.inl => exact stateInv_loade h hb hd
    case inr.inr.inl => exact stateInv_rande h hb hd _ _
    case inr.inr.inr.inl => exact stateInv_encodeHeld h hb hd
    case inr.inr.inr.inr.inl => exact stateInv_decodeHeld h hb hd
    case inr.inr.inr.inr.inr.inl => exact stateInv_verifyHeld h hb
    case inr.inr.inr.inr.inr.inr.inl => exact stateInv_deriveSeed h hb
    case inr.inr.inr.inr.inr.inr.inr =>
      exact stateInv_finish (stateInv_clearGroups h _) ((clearGroups_phase _ s).trans hb)

theorem stateInv_sequencerPart {s t : State} (h : StateInv s) (hb : s.phase = .busy) (hs : sequencerPart s = .next t) :
    StateInv t := by
  match hw : s.wait with
  | none =>
    rw [sequencerPart_hangs hw] at hs
    cases hs
    exact h
  | some 0 =>
    rw [sequencerPart_due hw, completeLatched_busy hb] at hs
    cases hs
    exact stateInv_latchedEffect h hb
  | some (k + 1) =>
    rw [sequencerPart_waits hw] at hs
    cases hs
    exact stateInv_host_fields h s.host s.rdata (some k) s.fresh

/-! ## The invariants and the host's accesses -/

theorem stateInv_acceptInvalidate {s : State} (h : StateInv s) (i : Instr) : StateInv (acceptInvalidate i s) := by
  cases i
  case loade | rande | decode => exact stateInv_invalidateE h
  case encode => exact stateInv_invalidateDI h
  case seed => exact stateInv_invalidateS h
  all_goals exact h

/-- Latching a word whose command finds its group invalidated (R116). -/
theorem stateInv_latch {s : State} (h : StateInv s) (w : CmdWord) (f : Nat) (k : Option Nat)
    (hc : decodeCmd w = .ok .loade ∨ decodeCmd w = .ok .rande ∨ decodeCmd w = .ok .decode → s.evalid = false ∧ s.dvalid = false)
    (he : decodeCmd w = .ok .encode → s.ivalid = false ∧ s.dvalid = false)
    (hs : decodeCmd w = .ok .seed → s.svalid = false) :
    StateInv { s with opc := w, phase := .busy, err := 0, errinfo := 0, done := false, fresh := f, wait := k } :=
  { h with
    errorDetail := fun _ => rfl
    errorCode := Nat.zero_le _
    fatalCode := by simp
    inFlight := fun _ => ⟨rfl, rfl⟩
    acceptedConstructor := fun _ => hc
    acceptedEncode := fun _ => he
    acceptedSeed := fun _ => hs }

/-- The invalidations of acceptance do not look at what the latch writes. -/
theorem acceptInvalidate_latch (i : Instr) (s : State) (w : CmdWord) (f : Nat) :
    acceptInvalidate i { s with opc := w, phase := .busy, err := 0, errinfo := 0, done := false, fresh := f }
      = { acceptInvalidate i s with opc := w, phase := .busy, err := 0, errinfo := 0, done := false, fresh := f } := by
  cases i <;> rfl

theorem stateInv_accept {s : State} (h : StateInv s) (w : CmdWord) : StateInv (accept w s) := by
  cases hd : decodeCmd w with
  | error r =>
    rw [accept_error hd]
    exact stateInv_latch h w _ _ (by simp [hd]) (by simp [hd]) (by simp [hd])
  | ok i =>
    obtain ⟨k, hk⟩ := accept_ok hd s
    rw [hk, acceptInvalidate_latch]
    refine stateInv_latch (stateInv_acceptInvalidate h i) w _ k ?_ ?_ ?_
    · rw [hd]
      rintro (hi | hi | hi) <;> cases hi <;> exact ⟨rfl, rfl⟩
    · rw [hd]
      intro hi
      cases hi
      exact ⟨rfl, rfl⟩
    · rw [hd]
      intro hi
      cases hi
      rfl

/-- A register file with zeros past its counter keeps them past the counter's next value when an entry is pushed (R112, R113). -/
theorem getD_push_tail {w n : Nat} (hn : n ≤ 255) (v : Vector (BitVec w) n) (c : Byte) (b : BitVec w)
    (hv : ∀ j, min c.toNat n ≤ j → v.getD j 0 = 0) (j : Nat) (hj : min (satInc c).toNat n ≤ j) :
    (if c.toNat < n then v.setIfInBounds c.toNat b else v).getD j 0 = 0 := by
  have hlt := c.isLt
  rw [toNat_satInc] at hj
  split
  · rw [getD_setIfInBounds_ne _ _ _ _ (by omega)]
    exact hv j (by omega)
  · exact hv j (by omega)

theorem stateInv_pushEntropy {s : State} (h : StateInv s) (b : Byte) : StateInv (pushEntropy b s) :=
  stateInv_replaceEntropy (stateInv_invalidateE h) rfl _ (satInc s.elen)
    (getD_push_tail (by decide) s.ent s.elen b h.entTail)

theorem stateInv_pushIndex {s : State} (h : StateInv s) (unk : Bool) (n : Idx) : StateInv (pushIndex unk n s) := by
  refine stateInv_replaceIndices (stateInv_invalidateDI h) rfl rfl _ (satInc s.wcnt) _ _
    (getD_push_tail (by decide) s.idx s.wcnt n h.idxTail) fun hk => ?_
  obtain ⟨hseen, rfl⟩ := Bool.or_eq_false_iff.mp hk
  exact h.unknownRecord hseen

theorem stateInv_pushPass {s : State} (h : StateInv s) (b : Byte) : StateInv (pushPass b s) := by
  have hinv := stateInv_invalidateS h
  have hmax : s.pass.length ≤ 511 := h.passSize
  have hle : s.plen.toNat ≤ s.pass.length := h.plenBound
  by_cases hlt : s.plen.toNat < passMax s
  · rw [pushPass_of_room hlt]
    have hlt' : s.plen.toNat < s.pass.length := hlt
    have hplen : (s.plen + 1).toNat = s.plen.toNat + 1 := by
      bv_omega
    have htail : ∀ i, (s.plen + 1).toNat ≤ i → (s.pass.set s.plen.toNat b).getD i 0 = 0 := fun i hi => by
      rw [List.getD_eq_getElem?_getD, List.getElem?_set_ne (by omega), ← List.getD_eq_getElem?_getD]
      exact h.passTail i (by omega)
    exact stateInv_replacePass hinv rfl (s.pass.set s.plen.toNat b) (s.plen + 1) s.povf List.length_set htail
      (by rw [List.length_set]; omega) fun ho => absurd (h.overflowFull ho) (Nat.ne_of_lt hlt)
  · rw [pushPass_of_full hlt]
    exact stateInv_replacePass hinv rfl s.pass s.plen true rfl h.passTail hle fun _ => hle.antisymm (not_lt.mp hlt)

theorem stateInv_writeEffect {s : State} (h : StateInv s) (hp : s.phase = .idle) (i : Instr) : StateInv (writeEffect i s) := by
  cases i
  case wrctrl ie strict => exact stateInv_control h strict ie s.lang h.langCode
  case cmdwr w => exact stateInv_accept h w
  case ack a => exact stateInv_ite h a (f := fun s => { s with done := false }) (stateInv_setDone h (by simp [hp]) false)
  case wrlang code =>
    simp only [writeEffect]
    split
    case isTrue hc => exact stateInv_control h s.strict s.ie code hc
    case isFalse => exact h
  case epush b => exact stateInv_pushEntropy h b
  case ipush unk n => exact stateInv_pushIndex h unk n
  case ppush b => exact stateInv_pushPass h b
  all_goals exact h

theorem stateInv_hostAccess {s t : State} (h : StateInv s) (b : BusWord) (hs : hostAccess b s = .next t) : StateInv t := by
  by_cases hp : s.phase = .idle
  · unfold hostAccess at hs
    split at hs
    case h_2 =>
      cases hs
      exact h
    case h_1 i hd =>
      by_cases hr : ∃ rn, i = .rd rn
      · obtain ⟨rn, rfl⟩ := hr
        cases hs
        exact stateInv_host_fields h s.host (regRead s rn) s.wait s.fresh
      · rw [exec_write (isCommand_of_decodeBus hd) (by simpa using hr), hostWrite_idle _ hp] at hs
        cases hs
        exact stateInv_writeEffect h hp i
  · obtain ⟨v, hv⟩ := hostAccess_not_idle b hp
    rw [hv] at hs
    cases hs
    exact stateInv_host_fields h s.host v s.wait s.fresh

theorem stateInv_hostPart {s t : State} (h : StateInv s) (hs : hostPart s = .next t) : StateInv t := by
  unfold hostPart at hs
  split at hs
  case h_1 =>
    cases hs
    exact h
  case h_2 | h_5 =>
    cases hs
    exact stateInv_host_fields h _ _ _ _
  case h_3 b rest _ => exact stateInv_hostAccess (stateInv_host_fields h rest s.rdata s.wait s.fresh) b hs
  case h_4 =>
    simp only [pollStatus, exec, execRd, andThen] at hs
    split at hs <;> cases hs <;> exact stateInv_host_fields h _ _ _ _

/-- The host's part of a cycle leaves the block in BUSY. -/
theorem hostPart_busy {s t : State} (hb : s.phase = .busy) (hs : hostPart s = .next t) : t.phase = .busy := by
  obtain ⟨v, ho, heq, -⟩ := hostPart_not_idle (s := s) (by simp [hb])
  rw [heq] at hs
  cases hs
  exact hb

/-- Where two parts of a cycle give a next state, the first one does, and the second from there. -/
theorem andThen_eq_next {o : Host.Outcome State Fault Refusal} {f : State → Host.Outcome State Fault Refusal} {t : State}
    (h : andThen o f = .next t) : ∃ s, o = .next s ∧ f s = .next t := by
  cases o with
  | next s => exact ⟨s, rfl, h⟩
  | fault r => cases r
  | refused r => cases h

/-! ## The statements about the invariants -/

/-- Settles O48: a step is the reset edge, or the host's part and, in BUSY, the sequencer's, and each keeps the invariants. -/
theorem everyStepKeepsTheInvariants : Obligations.EveryStepKeepsTheInvariants := by
  intro s t h hs
  by_cases hr : ∃ b rest, s.host = .reset b :: rest
  · obtain ⟨b, rest, hhost⟩ := hr
    rw [step_reset hhost] at hs
    cases hs
    exact stateInv_resetEdge (stateInv_host_fields h rest s.rdata s.wait s.fresh) b
  · rw [step_of_not_reset (by simpa using hr)] at hs
    obtain ⟨u, hu, hseq⟩ := andThen_eq_next hs
    have hinv := stateInv_hostPart h hu
    split at hseq
    case isTrue hb => exact stateInv_sequencerPart hinv (hostPart_busy hb hu) hseq
    case isFalse =>
      cases hseq
      exact hinv

/-- Settles O47: State.reset is the reset state of a block whose PASS_MAX is the default. -/
theorem invariantsHoldAtReset : Obligations.InvariantsHoldAtReset :=
  stateInv_reset_pass (n := Config.passMaxDefault) (by decide)

end Sys2Proof.Machine
end

section
/-! PROOFS. The reset values, the views STATUS, ID and SEP, and the completion of a command in its time (10_state.md R20 to R24). -/

namespace Sys2Proof.Machine

/-! ## Reset and the views (10_state.md R37, R40, R44, R57) -/

/-- Settles O1, from the reset value of each field. -/
theorem resetGivesEveryRegisterItsValue : Obligations.ResetGivesEveryRegisterItsValue :=
  ⟨rfl, rfl, getD_replicate_zero 32, rfl, getD_replicate_zero 24, rfl, List.length_replicate, list_getD_replicate_zero 256, rfl,
    getD_replicate_zero 64, rfl, rfl, rfl, rfl, rfl, rfl, rfl, rfl, rfl, rfl, rfl, rfl, rfl, rfl, rfl, rfl, rfl, rfl, rfl, rfl, rfl⟩

/-- Settles O8: BUSY and the validity flags are known; the other bits follow the order of STATUS. -/
theorem statusBitsShowTheState : Obligations.StatusBitsShowTheState := by
  intro s
  obtain ⟨hev, hiv, hdv, hcs, hsv⟩ := statusWord_validity s
  obtain ⟨hdone, herr, hfatal⟩ : (statusWord s).getLsbD 0 = s.done ∧ (statusWord s).getLsbD 2 = decide (s.err ≠ 0)
      ∧ (statusWord s).getLsbD 3 = decide (s.phase = .fault) := by
    simp only [statusWord, BitVec.getLsbD_append]
    simp [errFlag, fatalFlag, bne, Bool.beq_eq_decide_eq]
  obtain ⟨hunk, hpovf⟩ : (statusWord s).getLsbD 9 = s.unkseen ∧ (statusWord s).getLsbD 10 = s.povf := by
    simp only [statusWord, BitVec.getLsbD_append]
    simp
  have hreserved : ∀ k, 11 ≤ k → (statusWord s).getLsbD k = false := fun k hk => by
    simp only [statusWord, BitVec.getLsbD_append]
    repeat rw [if_neg (by omega)]
    exact BitVec.getLsbD_zero
  exact ⟨hdone, statusWord_busy s, herr, hfatal, hev, hiv, hdv, hcs, hsv, hunk, hpovf, hreserved⟩

/-- A register that reads true in every phase (R71, R75, R77). -/
theorem regRead_of_alwaysReadable {s : State} {rn : RegNum} (h : alwaysReadable rn = true) : regRead s rn = regValue s rn := by
  cases hp : s.phase
  · exact regRead_idle rn hp
  · rw [regRead_busy rn hp, if_pos h]
  · rw [regRead_fault rn hp, if_pos (.inl h)]

/-- A write to a number that names no write operation does nothing, in every phase (R72). -/
theorem hostAccess_write_unmapped {rn : RegNum} {v : Half} {r : Reject} (h : decodeWrite rn v = .error r) (s : State) :
    hostAccess (busWord true rn v) s = .next s := by
  have hd : decode (.bus (busWord true rn v)) = .error r := by
    rw [decode, decodeBus_write _ (busWe_busWord true rn v), busRn_busWord, busData_busWord, h]
  simp only [hostAccess, hd]

/-- Settles O9: both read true in every phase, and neither number names a write. -/
theorem idAndSeparatorAreReadOnlyViews : Obligations.IdAndSeparatorAreReadOnlyViews := fun s =>
  ⟨regRead_of_alwaysReadable (by decide), regRead_of_alwaysReadable (by decide), fun v =>
    ⟨hostAccess_write_unmapped (r := .unmappedWrite 0x000) rfl s, hostAccess_write_unmapped (r := .unmappedWrite 0x007) rfl s⟩⟩

/-! ## Completion and the step (10_state.md R20, R22, R24) -/

/-- Settles O20: a command is its effect at a completion, and there is none outside BUSY. -/
theorem commandsActOnlyInBusy : Obligations.CommandsActOnlyInBusy := fun s i hi hp => by
  rw [exec_command hi, atCompletion_not_busy _ hp]

/-- R97 in the fields the decoder reads. -/
theorem legalCmd_iff (w : CmdWord) :
    WellFormed.legalCmd w = true ↔ (cmdZ1 w = 0 ∧ cmdZ0 w = 0) ∧ (cmdM w = 0 ∨ cmdOp w = 7) ∧ (cmdOp w).toNat < 8 := by
  simp only [WellFormed.legalCmd, WellFormed.opAssigned, WellFormed.z0Zero, WellFormed.z1Zero, WellFormed.maskAllowed, cmdZ1, cmdZ0,
    cmdM, cmdOp, Bool.and_eq_true, Bool.or_eq_true, decide_eq_true_eq, beq_iff_eq]
  tauto

/-- A word that R97 calls illegal is rejected. -/
theorem decodeCmd_of_not_legal {w : CmdWord} (h : WellFormed.legalCmd w = false) : decodeCmd w = .error (.illegalCommand w) := by
  rw [← Bool.not_eq_true, legalCmd_iff, op_lt_eight_iff] at h
  unfold decodeCmd
  split_ifs <;> simp_all

/-- A cycle in BUSY without reset: the sequencer's part, on a state that differs in the host's own fields alone. -/
theorem step_busy {s : State} (hb : s.phase = .busy) (hr : ∀ b rest, s.host ≠ .reset b :: rest) :
    ∃ v h, step s = sequencerPart { s with rdata := v, host := h } ∧ ∀ c ∈ h, c ∈ s.host := by
  obtain ⟨v, h, heq, hsub⟩ := hostPart_not_idle (s := s) (by simp [hb])
  refine ⟨v, h, ?_, hsub⟩
  rw [step_of_not_reset hr, heq, if_pos hb]
  rfl

/-- The cycle in which the completion falls due. -/
theorem step_due {s : State} (hb : s.phase = .busy) (hw : s.wait = some 0) (hr : ∀ b rest, s.host ≠ .reset b :: rest) :
    ∃ v h, step s = completeLatched { s with rdata := v, host := h } := by
  obtain ⟨v, h, heq, -⟩ := step_busy hb hr
  exact ⟨v, h, heq.trans (sequencerPart_due hw)⟩

/-- Settles O38: the host's part of the cycle leaves all but its own fields, and the sequencer's part is then the completion. -/
theorem stepCompletesTheLatchedCommand : Obligations.StepCompletesTheLatchedCommand := by
  intro s hb hw
  refine ⟨fun hh => ?_, fun rest hh => ?_, fun hr => ?_, fun i hi => completeLatched_ok hi, fun hl => ?_⟩
  · rw [step_busy_host_done hb hh, sequencerPart_due hw]
  · rw [step_of_not_reset (by simp [hh]), hostPart, hh, if_pos hb]
    exact sequencerPart_due hw
  · exact step_due hb hw hr
  · rw [completeLatched_error (decodeCmd_of_not_legal hl) hb]
    rfl

/-- A command that has completed: out of BUSY, with DONE (R220, R230, R236). -/
def Completed (s : State) : Prop := s.phase ≠ .busy ∧ s.done = true

theorem completed_finish (s : State) : Completed (finish s) := ⟨nofun, rfl⟩

theorem completed_failWith (e : CommandError) (s : State) : Completed (failWith e s) := ⟨nofun, rfl⟩

theorem completed_enterFault (e : CommandError) (s : State) : Completed (enterFault e s) := ⟨nofun, rfl⟩

theorem completed_raise (e : CommandError) (s : State) : Completed (raise e s) := by
  cases e
  case internalInvariantViolation => exact completed_enterFault _ _
  all_goals exact completed_failWith _ _

theorem completed_ite {c : Prop} [Decidable c] {s t : State} (hs : Completed s) (ht : Completed t) :
    Completed (if c then s else t) := by split <;> assumption

theorem completed_completionEffect {i : Instr} (hi : isCommand i = true) (s : State) : Completed (completionEffect i s) := by
  cases i
  case nop => exact completed_finish _
  case loade => exact completed_ite (completed_finish _) (completed_raise _ _)
  case rande => exact completed_finish _
  case encode => exact completed_ite (completed_raise _ _) (completed_ite (completed_raise _ _) (completed_finish _))
  case decode =>
    refine completed_ite (completed_raise _ _) ?_
    split
    · exact completed_ite (completed_raise _ _) (completed_finish _)
    · exact completed_raise _ _
  case verify => exact completed_ite (completed_raise _ _) (completed_ite (completed_raise _ _) (completed_finish _))
  case seed => exact completed_ite (completed_raise _ _) (completed_ite (completed_raise _ _) (completed_finish _))
  case clr m => exact completed_finish _
  all_goals cases hi

theorem completed_latchedEffect (s : State) : Completed (latchedEffect s) := by
  unfold latchedEffect
  split
  case h_1 i hi => exact completed_completionEffect (isCommand_of_decodeCmd hi) s
  case h_2 => exact completed_failWith _ _

theorem NoReset.not_reset_first {s : State} (h : NoReset s) (b : Option BusWord) (rest : List HostCycle) : s.host ≠ .reset b :: rest :=
  fun heq => h (.reset b) (by simp [heq]) b rfl

/-- A cycle of a command's wait: one less to wait, and no register changes. -/
theorem step_waits {s : State} {k : Nat} (hb : s.phase = .busy) (hw : s.wait = some (k + 1)) (hn : NoReset s) :
    ∃ t, step s = .next t ∧ SameBlock s t ∧ t.phase = .busy ∧ t.wait = some k ∧ NoReset t := by
  obtain ⟨v, h, heq, hsub⟩ := step_busy hb hn.not_reset_first
  exact ⟨_, heq.trans (sequencerPart_waits hw), rfl, hb, rfl, fun c hc => hn c (hsub c hc)⟩

theorem SameBlock.trans {s t u : State} (hst : SameBlock s t) (htu : SameBlock t u) : SameBlock s u := by
  rw [SameBlock] at *
  rw [htu, hst]

/-- During a wait the block stays in BUSY with its registers as they were. -/
theorem run_during_wait (j : Nat) {s : State} {k : Nat} (hb : s.phase = .busy) (hw : s.wait = some k) (hn : NoReset s)
    (hj : j ≤ k) : ∃ t, Sys2Proof.core.run j s = .next t ∧ SameBlock s t ∧ t.phase = .busy := by
  induction j generalizing s k with
  | zero => exact ⟨s, rfl, rfl, hb⟩
  | succ j ih =>
    obtain ⟨k, rfl⟩ := Nat.exists_eq_add_of_lt hj
    obtain ⟨t, hstep, hst, hb', hw', hn'⟩ := step_waits hb hw hn
    obtain ⟨u, hrun, htu, hbu⟩ := ih hb' hw' hn' (by omega)
    exact ⟨u, (run_succ hstep j).trans hrun, hst.trans htu, hbu⟩

/-- The step after a wait completes the latched word on the registers the wait began with. -/
theorem run_past_wait (k : Nat) {s : State} (hb : s.phase = .busy) (hw : s.wait = some k) (hn : NoReset s) :
    ∃ u, Sys2Proof.core.run (k + 1) s = completeLatched u ∧ SameBlock s u ∧ u.phase = .busy := by
  induction k generalizing s with
  | zero =>
    obtain ⟨v, h, hstep⟩ := step_due hb hw hn.not_reset_first
    have hnext := completeLatched_busy (s := { s with rdata := v, host := h }) hb
    exact ⟨_, (run_succ (hstep.trans hnext) 0).trans hnext.symm, rfl, hb⟩
  | succ k ih =>
    obtain ⟨t, hstep, hst, hb', hw', hn'⟩ := step_waits hb hw hn
    obtain ⟨u, hrun, htu, hbu⟩ := ih hb' hw' hn'
    exact ⟨u, (run_succ hstep (k + 1)).trans hrun, hst.trans htu, hbu⟩

/-- Settles O41, by induction on the wait. -/
theorem commandCompletesWhenTheOraclesAnswer : Obligations.CommandCompletesWhenTheOraclesAnswer := by
  intro s k hb hw hn
  refine ⟨fun j hj => run_during_wait j hb hw hn hj, ?_⟩
  obtain ⟨u, hrun, hsu, hbu⟩ := run_past_wait k hb hw hn
  have heff := completeLatched_busy hbu
  obtain ⟨hphase, hdone⟩ := completed_latchedEffect u
  exact ⟨latchedEffect u, hrun.trans heff, hphase, hdone, u, hsu, heff⟩

end Sys2Proof.Machine
end

section
/-! PROOFS. What reads PASS and LANG (10_state.md R29, R43; 70_reset_and_hazards.md R263). One comparison
serves both registers: an effect is run on a state and on the same state with another PASS and another LANG. -/

namespace Sys2Proof.Machine

/-! ## The comparison -/

/-- The state with another PASS and another LANG. -/
def withPassLang (p : List Byte) (l : BitVec 4) (s : State) : State := { s with pass := p, lang := l }

/-- From `s` the effect `k` computes nothing from the bytes of PASS but PASS itself, and nothing from LANG. -/
def IgnoresPassLang (k : State → State) (s : State) : Prop :=
  ∃ g : List Byte → List Byte, (∀ p, (g p).length = p.length)
    ∧ ∀ p l, p.length = s.pass.length → k (withPassLang p l s) = withPassLang (g p) l (k s)

/-- Two states that differ in the bytes of PASS alone. -/
def DiffersInPass (s t : State) : Prop := ∃ q, q.length = s.pass.length ∧ t = { s with pass := q }

/-- Two states that differ in LANG alone, which is `l` in the second. -/
def DiffersInLang (l : BitVec 4) (s t : State) : Prop := t = { s with lang := l }

theorem ignoresPassLang_of_commutes {k : State → State} {s : State}
    (h : ∀ p l, k (withPassLang p l s) = withPassLang p l (k s)) : IgnoresPassLang k s :=
  ⟨id, fun _ => rfl, fun p l _ => h p l⟩

section
variable {k : State → State} {s : State}

/-- The comparison of a state with itself tells what the effect does to PASS and LANG. -/
theorem IgnoresPassLang.self (h : IgnoresPassLang k s) :
    ∃ g : List Byte → List Byte, (∀ p, (g p).length = p.length) ∧ (k s).pass = g s.pass ∧ (k s).lang = s.lang
      ∧ ∀ p l, p.length = s.pass.length → k (withPassLang p l s) = withPassLang (g p) l (k s) := by
  obtain ⟨g, hg, hk⟩ := h
  have hself : k s = withPassLang (g s.pass) s.lang (k s) := hk s.pass s.lang rfl
  refine ⟨g, hg, ?_, ?_, hk⟩ <;> rw [hself] <;> rfl

theorem IgnoresPassLang.pass_length (h : IgnoresPassLang k s) : (k s).pass.length = s.pass.length := by
  obtain ⟨g, hg, hpass, -, -⟩ := h.self
  rw [hpass, hg]

theorem IgnoresPassLang.differsInPass (h : IgnoresPassLang k s) {p : List Byte} (hp : p.length = s.pass.length) :
    DiffersInPass (k s) (k { s with pass := p }) := by
  obtain ⟨g, hg, -, hlang, hk⟩ := h.self
  exact ⟨g p, by rw [hg, hp, h.pass_length], (hk p s.lang hp).trans (by rw [← hlang]; rfl)⟩

theorem IgnoresPassLang.differsInLang (h : IgnoresPassLang k s) (l : BitVec 4) :
    DiffersInLang l (k s) (k { s with lang := l }) := by
  obtain ⟨g, -, hpass, -, hk⟩ := h.self
  exact (hk s.pass l rfl).trans (by rw [← hpass]; rfl)

theorem IgnoresPassLang.comp {f : State → State} (hk : IgnoresPassLang k (f s)) (hf : IgnoresPassLang f s) :
    IgnoresPassLang (fun s => k (f s)) s := by
  have hlen := hf.pass_length
  obtain ⟨g, hg, hf⟩ := hf
  obtain ⟨g', hg', hk⟩ := hk
  refine ⟨fun p => g' (g p), fun p => by rw [hg', hg], fun p l hp => ?_⟩
  exact (congrArg k (hf p l hp)).trans (hk (g p) l (by rw [hg, hp, hlen]))

theorem IgnoresPassLang.cond (c : Bool) (h : IgnoresPassLang k s) : IgnoresPassLang (fun s => if c then k s else s) s := by
  cases c
  · exact ignoresPassLang_of_commutes fun _ _ => rfl
  · exact h

end

/-! ## The host writes -/

/-- Whether SEED asks its oracle does not depend on what it would ask (R174). -/
theorem seed_asks (s : State) : (oracleRequests .seed s != []) = (s.evalid && !s.povf) := by
  simp only [oracleRequests]
  cases s.evalid <;> cases s.povf <;> rfl

theorem accept_ignoresPassLang (w : CmdWord) (s : State) : IgnoresPassLang (accept w) s := by
  refine ignoresPassLang_of_commutes fun p l => ?_
  cases hd : decodeCmd w with
  | error r =>
    rw [accept_error hd, accept_error hd]
    rfl
  | ok i =>
    rw [accept_of_ok hd, accept_of_ok hd]
    cases i
    case seed =>
      simp only [seed_asks]
      rfl
    all_goals rfl

theorem pushPass_ignoresPassLang (b : Byte) (s : State) : IgnoresPassLang (pushPass b) s := by
  by_cases h : s.plen.toNat < passMax s
  · refine ⟨fun p => p.set s.plen.toNat b, fun _ => List.length_set, fun p l hp => ?_⟩
    rw [pushPass_of_room h, pushPass_of_room (s := withPassLang p l s) (h.trans_eq hp.symm)]
    rfl
  · refine ⟨id, fun _ => rfl, fun p l hp => ?_⟩
    rw [pushPass_of_full h, pushPass_of_full (s := withPassLang p l s) fun h' => h (h'.trans_eq hp)]
    rfl

/-- Of the host writes only WRLANG touches LANG. -/
theorem writeEffect_ignoresPassLang {i : Instr} (hi : ∀ c, i ≠ .wrlang c) (s : State) : IgnoresPassLang (writeEffect i) s := by
  cases i
  case cmdwr w => exact accept_ignoresPassLang w s
  case ack a => exact (ignoresPassLang_of_commutes fun _ _ => rfl).cond a (k := fun s => { s with done := false })
  case wrlang c => exact absurd rfl (hi c)
  case ppush b => exact pushPass_ignoresPassLang b s
  all_goals exact ignoresPassLang_of_commutes fun _ _ => rfl

/-! ## The completions -/

theorem loade_ignoresPassLang (sha : List Byte → Digest) (s : State) : IgnoresPassLang (loade sha) s := by
  refine ignoresPassLang_of_commutes fun p l => ?_
  by_cases h : (tripleOfElen s.elen.toNat).isSome = true
  · rw [loade_of_legal h, loade_of_legal (s := withPassLang p l s) h]
    rfl
  · rw [loade_of_illegal h, loade_of_illegal (s := withPassLang p l s) h]
    rfl

/-- ENCODE touches PASS in its fatal error alone, which clears it. -/
theorem encodeHeld_ignoresPassLang (s : State) : IgnoresPassLang encodeHeld s := by
  cases he : s.evalid
  · refine ignoresPassLang_of_commutes fun p l => ?_
    rw [encodeHeld_of_no_entropy he, encodeHeld_of_no_entropy (s := withPassLang p l s) he]
    rfl
  · cases hc : countCheck s
    · refine ⟨fun p => List.replicate p.length 0, fun _ => List.length_replicate, fun p l _ => ?_⟩
      rw [encodeHeld_of_count_mismatch he hc, encodeHeld_of_count_mismatch (s := withPassLang p l s) he hc]
      rfl
    · refine ignoresPassLang_of_commutes fun p l => ?_
      rw [encodeHeld_of_count_ok he hc, encodeHeld_of_count_ok (s := withPassLang p l s) he hc]
      rfl

theorem strip_ignoresPassLang (u : Unpacked) (k : Nat × Nat) (s : State) : IgnoresPassLang (strip u k) s := by
  refine ignoresPassLang_of_commutes fun p l => ?_
  by_cases h : s.strict = true ∧ k.2 ≠ u.x
  · rw [strip_of_mismatch h, strip_of_mismatch (s := withPassLang p l s) h]
    rfl
  · rw [strip_of_accepted h, strip_of_accepted (s := withPassLang p l s) h]
    rfl

/-- DECODE reads LANG for its report of an unknown word alone. -/
theorem decodeHeld_ignoresPassLang (sha : List Byte → Digest) {s : State} (hk : s.unkseen = false) :
    IgnoresPassLang (decodeHeld sha) s := by
  cases hu : unpackHeld s with
  | none =>
    refine ignoresPassLang_of_commutes fun p l => ?_
    rw [decodeHeld_of_bad_count hk hu, decodeHeld_of_bad_count (s := withPassLang p l s) hk hu]
    rfl
  | some u =>
    obtain ⟨g, hg, hstrip⟩ := strip_ignoresPassLang u (checksum sha u.ent) s
    refine ⟨g, hg, fun p l hp => ?_⟩
    rw [decodeHeld_of_unpacked hk hu, decodeHeld_of_unpacked (s := withPassLang p l s) hk hu, hstrip p l hp]

theorem verifyHeld_ignoresPassLang (s : State) : IgnoresPassLang verifyHeld s := by
  refine ignoresPassLang_of_commutes fun p l => ?_
  cases hd : s.dvalid
  · rw [verifyHeld_of_no_strip hd, verifyHeld_of_no_strip (s := withPassLang p l s) hd]
    rfl
  · cases hc : s.csok
    · rw [verifyHeld_of_mismatch hd hc, verifyHeld_of_mismatch (s := withPassLang p l s) hd hc]
      rfl
    · rw [verifyHeld_of_match hd hc, verifyHeld_of_match (s := withPassLang p l s) hd hc]
      rfl

/-- CLR touches PASS in its group P alone, which clears it. -/
theorem clearP_ignoresPassLang (s : State) : IgnoresPassLang clearP s :=
  ⟨fun p => List.replicate p.length 0, fun _ => List.length_replicate, fun _ _ _ => rfl⟩

theorem clearGroups_ignoresPassLang (m : BitVec 4) (s : State) : IgnoresPassLang (clearGroups m) s := by
  have hE : ∀ s, IgnoresPassLang clearE s := fun s => ignoresPassLang_of_commutes fun _ _ => rfl
  have hI : ∀ s, IgnoresPassLang clearI s := fun s => ignoresPassLang_of_commutes fun _ _ => rfl
  have hS : ∀ s, IgnoresPassLang invalidateS s := fun s => ignoresPassLang_of_commutes fun _ _ => rfl
  exact ((hS _).cond _).comp (((clearP_ignoresPassLang _).cond _).comp (((hI _).cond _).comp ((hE s).cond _)))

/-- Of the completions only SEED reads PASS, and only DECODE's report of an unknown word reads LANG. -/
theorem completionEffect_ignoresPassLang {i : Instr} {s : State} (hi : i ≠ .seed) (hd : i = .decode → s.unkseen = false) :
    IgnoresPassLang (completionEffect i) s := by
  cases i
  case loade => exact loade_ignoresPassLang _ s
  case encode => exact encodeHeld_ignoresPassLang s
  case decode => exact decodeHeld_ignoresPassLang _ (hd rfl)
  case verify => exact verifyHeld_ignoresPassLang s
  case seed => exact absurd rfl hi
  case clr m =>
    exact (ignoresPassLang_of_commutes (k := finish) fun _ _ => rfl).comp (clearGroups_ignoresPassLang m s)
  all_goals exact ignoresPassLang_of_commutes fun _ _ => rfl

/-! ## The two statements -/

/-- Two states in one phase and a relation that the instruction's effects respect: the results are related. -/
theorem exec_related {R : State → State → Prop} {s s' t : State} {i : Instr} (hr : ∀ rn, i ≠ .rd rn)
    (hp : s'.phase = s.phase) (hs : R s s') (hc : R (completionEffect i s) (completionEffect i s'))
    (hw : R (writeEffect i s) (writeEffect i s')) (h : exec i s = .next t) : ∃ t', exec i s' = .next t' ∧ R t t' := by
  cases hi : isCommand i
  · rw [exec_write hi hr] at h ⊢
    rcases hostWrite_cases s (writeEffect i) with ⟨hph, heq⟩ | ⟨hph, heq⟩ <;> rw [heq] at h <;> cases h
    · exact ⟨_, hostWrite_idle _ (hp.trans hph), hw⟩
    · exact ⟨_, hostWrite_not_idle _ (hp ▸ hph), hs⟩
  · rw [exec_command hi] at h ⊢
    rcases atCompletion_cases s (completionEffect i) with ⟨hph, heq⟩ | ⟨hph, heq⟩ <;> rw [heq] at h <;> cases h
    · exact ⟨_, atCompletion_busy _ (hp.trans hph), hc⟩
    · exact ⟨_, atCompletion_not_busy _ (hp ▸ hph), hs⟩

theorem deriveSeed_lang (kdf : List Byte → List Byte → Nat → (n : Nat) → Vector Byte n) (s : State) (l : BitVec 4) :
    DiffersInLang l (deriveSeed kdf s) (deriveSeed kdf { s with lang := l }) := by
  rcases Bool.eq_false_or_eq_true s.evalid with he | he
  · rcases Bool.eq_false_or_eq_true s.povf with ho | ho
    · rw [deriveSeed_of_overflow he ho, deriveSeed_of_overflow (s := { s with lang := l }) he ho]
      rfl
    · rw [deriveSeed_of_ready he ho, deriveSeed_of_ready (s := { s with lang := l }) he ho]
      rfl
  · rw [deriveSeed_of_no_entropy he, deriveSeed_of_no_entropy (s := { s with lang := l }) he]
    rfl

theorem completionEffect_lang {i : Instr} {s : State} (hd : i = .decode → s.unkseen = false) (l : BitVec 4) :
    DiffersInLang l (completionEffect i s) (completionEffect i { s with lang := l }) := by
  by_cases hi : i = .seed
  · subst hi
    exact deriveSeed_lang _ s l
  · exact (completionEffect_ignoresPassLang hi hd).differsInLang l

/-- Settles O35: SEED reads PASS and not LANG, every other effect neither. -/
theorem languageChangesNoComputation : Obligations.LanguageChangesNoComputation := by
  intro s t i l hr hw hd h
  obtain ⟨t', ht', heq⟩ := exec_related (R := DiffersInLang l) (s := s) (s' := { s with lang := l }) hr rfl rfl
    (completionEffect_lang hd l) ((writeEffect_ignoresPassLang hw s).differsInLang l) h
  rw [ht', heq]

theorem completionEffect_pass {i : Instr} {s : State} (hi : i ≠ .seed) {p : List Byte} (hp : p.length = s.pass.length) :
    DiffersInPass (completionEffect i s) (completionEffect i { s with pass := p }) := by
  by_cases hd : i = .decode ∧ s.unkseen = true
  · obtain ⟨rfl, hk⟩ := hd
    refine ⟨p, ?_, ?_⟩ <;> simp only [completionEffect]
    · rwa [decodeHeld_of_unknown hk]
    · rw [decodeHeld_of_unknown hk, decodeHeld_of_unknown (s := { s with pass := p }) hk]
      rfl
  · exact (completionEffect_ignoresPassLang hi fun h => by simpa [h] using hd).differsInPass hp

theorem writeEffect_pass (i : Instr) {s : State} {p : List Byte} (hp : p.length = s.pass.length) :
    DiffersInPass (writeEffect i s) (writeEffect i { s with pass := p }) := by
  by_cases hw : ∃ c, i = .wrlang c
  · obtain ⟨c, rfl⟩ := hw
    simp only [writeEffect]
    split <;> exact ⟨p, hp, rfl⟩
  · exact (writeEffect_ignoresPassLang (by simpa using hw) s).differsInPass hp

/-- Settles O10: a read of no register shows PASS, and no effect but SEED's computes from it. -/
theorem passphraseIsReadBySeedAlone : Obligations.PassphraseIsReadBySeedAlone := by
  intro s t p i hi hp h
  by_cases hr : ∃ rn, i = .rd rn
  · obtain ⟨rn, rfl⟩ := hr
    cases h
    exact ⟨p, hp, rfl⟩
  · obtain ⟨t', ht', q, hq, rfl⟩ := exec_related (R := DiffersInPass) (s := s) (s' := { s with pass := p }) (by simpa using hr) rfl
      ⟨p, hp, rfl⟩ (completionEffect_pass hi hp) (writeEffect_pass i hp) h
    exact ⟨q, hq, ht'⟩

end Sys2Proof.Machine
end

section
/-! PROOFS. The register numbers as the host reads and writes them, and the step that runs the host's access (20_memory.md R70 to R77). -/

namespace Sys2Proof.Machine

/-! ## The register map (10_state.md R54) -/

/-- From 0x00F up the map holds the three windows and nothing else. -/
theorem regValue_windows {rn : RegNum} (h : 0x00F ≤ rn.toNat) (s : State) :
    regValue s rn =
      if 0x020 ≤ rn.toNat ∧ rn.toNat < 0x040 then (s.ent.getD (rn.toNat - 0x020) 0).setWidth 16
      else if 0x040 ≤ rn.toNat ∧ rn.toNat < 0x058 then (s.idx.getD (rn.toNat - 0x040) 0).setWidth 16
      else if 0x080 ≤ rn.toNat ∧ rn.toNat < 0x0C0 then (s.seed.getD (rn.toNat - 0x080) 0).setWidth 16
      else 0 := by
  simp only [regValue]
  iterate 14 rw [if_neg (by omega)]

/-- A register number written as a base and an offset within the map. -/
theorem toNat_regNum_offset {base i : Nat} (h : base + i < 512) : (BitVec.ofNat 9 (base + i)).toNat = base + i :=
  (BitVec.toNat_ofNat _ _).trans (Nat.mod_eq_of_lt h)

theorem regValue_ent (s : State) (i : Fin 32) : regValue s (BitVec.ofNat 9 (0x020 + i)) = s.ent[i].setWidth 16 := by
  have hn := toNat_regNum_offset (base := 0x020) (i := i) (by omega)
  rw [regValue_windows (by omega), hn, if_pos (by omega), Nat.add_sub_cancel_left]
  simp [Vector.getD]

theorem regValue_idx (s : State) (i : Fin 24) : regValue s (BitVec.ofNat 9 (0x040 + i)) = s.idx[i].setWidth 16 := by
  have hn := toNat_regNum_offset (base := 0x040) (i := i) (by omega)
  rw [regValue_windows (by omega), hn, if_neg (by omega), if_pos (by omega), Nat.add_sub_cancel_left]
  simp [Vector.getD]

theorem regValue_seed (s : State) (k : Fin 64) : regValue s (BitVec.ofNat 9 (0x080 + k)) = s.seed[k].setWidth 16 := by
  have hn := toNat_regNum_offset (base := 0x080) (i := k) (by omega)
  rw [regValue_windows (by omega), hn, if_neg (by omega), if_neg (by omega), if_pos (by omega), Nat.add_sub_cancel_left]
  simp [Vector.getD]

/-- CMD, the three push registers and the reserved numbers hold nothing to read (R71). -/
theorem regValue_unreadable {rn : RegNum} (h : rn.toNat = 0x002 ∨ (0x00F ≤ rn.toNat ∧ rn.toNat ≤ 0x01F)
    ∨ (0x058 ≤ rn.toNat ∧ rn.toNat ≤ 0x07F) ∨ 0x0C0 ≤ rn.toNat) (s : State) : regValue s rn = 0 := by
  by_cases hcmd : rn = 0x002
  · subst hcmd
    rfl
  · have hlow : 0x00F ≤ rn.toNat := by
      rcases h with h | h | h | h
      · exact absurd (BitVec.eq_of_toNat_eq h) hcmd
      all_goals omega
    rw [regValue_windows hlow, if_neg (by omega), if_neg (by omega), if_neg (by omega)]

/-- No phase hides a register behind a value other than 0 (R71, R75, R77). -/
theorem regRead_of_regValue_zero {s : State} {rn : RegNum} (h : regValue s rn = 0) : regRead s rn = 0 := by
  cases hp : s.phase
  case idle => rw [regRead_idle rn hp, h]
  case busy => rw [regRead_busy rn hp, h, ite_self]
  case fault => rw [regRead_fault rn hp, h, ite_self]

theorem alwaysReadable_iff (rn : RegNum) :
    alwaysReadable rn = true ↔ rn = 0x000 ∨ rn = 0x001 ∨ rn = 0x003 ∨ rn = 0x006 ∨ rn = 0x007 := by
  simp [alwaysReadable, ← BitVec.toNat_inj]

/-! ## Accesses by register number (R71, R72) -/

/-- A read access runs RD and changes nothing but the value the host holds. -/
theorem hostAccess_read (rn : RegNum) (d : Half) (s : State) :
    hostAccess (busWord false rn d) s = .next { s with rdata := regRead s rn } := by
  have hd : decode (.bus (busWord false rn d)) = .ok (.rd rn) := by
    rw [decode, decodeBus_read _ (busWe_busWord false rn d), busRn_busWord]
  simp only [hostAccess, hd, exec, execRd]

/-- A write access runs the operation its register number names. -/
theorem hostAccess_write_mapped {rn : RegNum} {v : Half} {i : Instr} (h : decodeWrite rn v = .ok i) (s : State) :
    hostAccess (busWord true rn v) s = exec i s := by
  have hd : decode (.bus (busWord true rn v)) = .ok i := by
    rw [decode, decodeBus_write _ (busWe_busWord true rn v), busRn_busWord, busData_busWord, h]
  simp only [hostAccess, hd]

/-- Above the push registers no number names a write, nor does 0x00F. -/
theorem decodeWrite_reserved {rn : RegNum} (h : rn.toNat = 0x00F ∨ 0x013 ≤ rn.toNat) (v : Half) :
    decodeWrite rn v = .error (.unmappedWrite rn) := by
  have hne (k : RegNum) (hk : k.toNat ≠ 0x00F ∧ k.toNat < 0x013) : rn ≠ k := by
    rintro rfl
    omega
  simp only [decodeWrite]
  iterate 7 rw [if_neg (hne _ (by decide))]

/-! ## The statements about reads -/

/-- Settles O4: RD is RegRead, which in IDLE is the map. -/
theorem idleReadFollowsTheMap : Obligations.IdleReadFollowsTheMap := by
  intro s hp
  simp only [regRead_idle _ hp, exec, execRd]
  exact ⟨fun _ => trivial, rfl, ctrlWord_eq s, rfl, rfl, rfl, rfl, rfl, rfl, rfl, rfl, rfl, rfl, rfl, rfl,
    regValue_ent s, regValue_idx s, regValue_seed s, fun _ h => regValue_unreadable h s⟩

/-- Settles O5: the number is one of the five that read true, or hidden. -/
theorem busyReadHidesTheData : Obligations.BusyReadHidesTheData := by
  intro s rn hp
  rw [exec, execRd, regRead_busy rn hp]
  simp only [alwaysReadable_iff]
  congr 2
  by_cases h : rn = 0x000 ∨ rn = 0x001 ∨ rn = 0x003 ∨ rn = 0x006 ∨ rn = 0x007
  · rw [if_pos h]
    rcases h with rfl | rfl | rfl | rfl | rfl
    case inr.inl => exact ctrlWord_eq s
    all_goals rfl
  · rw [if_neg h]
    simp only [not_or] at h
    simp only [h, if_false]

/-- Settles O6: the number is one of the five that read true, ERR or ERRINFO, or reads 0. -/
theorem faultReadShowsTheError : Obligations.FaultReadShowsTheError := by
  intro s rn hp
  rw [exec, execRd, regRead_fault rn hp]
  simp only [alwaysReadable_iff]
  congr 2
  by_cases h : (rn = 0x000 ∨ rn = 0x001 ∨ rn = 0x003 ∨ rn = 0x006 ∨ rn = 0x007) ∨ rn = 0x004 ∨ rn = 0x005
  · rw [if_pos h]
    rcases h with (rfl | rfl | rfl | rfl | rfl) | rfl | rfl
    case inl.inr.inl => exact ctrlWord_eq s
    all_goals rfl
  · rw [if_neg h]
    simp only [not_or] at h
    simp only [h, if_false]

/-- Settles O7: a reserved number holds nothing in the map, and names no write. -/
theorem reservedNumbersReadZeroAndIgnoreWrites : Obligations.ReservedNumbersReadZeroAndIgnoreWrites := by
  intro s rn h
  have hread : regRead s rn = 0 := regRead_of_regValue_zero (regValue_unreadable (by omega) s)
  exact ⟨by rw [hostAccess_read, hread], fun v => hostAccess_write_unmapped (decodeWrite_reserved (by omega) v) s⟩

/-! ## The statements about writes -/

/-- Settles O11, by the law of writes outside IDLE. -/
theorem writesOutsideIdleAreDropped : Obligations.WritesOutsideIdleAreDropped :=
  fun _ _ hwe hp => hostAccess_write_not_idle hwe hp

/-- Settles O12: the decoder's row for each of the seven numbers, and its rejection of every other. -/
theorem hostWritesGoByRegisterNumber : Obligations.HostWritesGoByRegisterNumber := by
  intro s rn v _
  split_ifs with hctrl hcmd hstatus hlang hepush hipush hppush
  case neg =>
    refine hostAccess_write_unmapped (r := .unmappedWrite rn) ?_ s
    simp only [decodeWrite, hctrl, hcmd, hstatus, hlang, hepush, hipush, hppush, if_false]
  all_goals
    subst rn
    exact hostAccess_write_mapped rfl s

/-! ## The statement about the step -/

/-- A part of a cycle with nothing after it. -/
theorem andThen_next (o : Host.Outcome State Fault Refusal) : andThen o .next = o := by cases o <;> rfl

/-- A cycle with an access that names an instruction: the instruction, then, in BUSY, the sequencer's part. -/
theorem step_access {s : State} {b : BusWord} {rest : List HostCycle} {i : Instr} (hh : s.host = .access b :: rest)
    (hd : decode (.bus b) = .ok i) :
    step s = andThen (exec i { s with host := rest }) (if s.phase = .busy then sequencerPart else .next) := by
  rw [step_of_not_reset (by simp [hh])]
  simp only [hostPart, hh, hostAccess, hd]

/-- Settles O37, from what a cycle with an access is. -/
theorem stepRunsThePresentedAccess : Obligations.StepRunsThePresentedAccess := by
  intro s b rest i hh hd
  refine ⟨fun hp => ?_, fun hp t ht => ?_⟩
  · rw [step_access hh hd, if_neg hp, andThen_next]
  · rw [step_access hh hd, if_pos hp, ht, andThen]

end Sys2Proof.Machine
end

section
/-! PROOFS. The round trip of the encoder and the decoder, the words the decoder accepts, and the pseudo-operation `wait`
(30_encoding.md R91 to R99). -/

namespace Sys2Proof.Machine

/-! ## The words of a built transaction and a built command (30_encoding.md R91, R92) -/

/-- A built write names what its register number and its data name. -/
theorem decode_busWord_write {rn : RegNum} {d : Half} {i : Instr} (h : decodeWrite rn d = .ok i) :
    decode (.bus (busWord true rn d)) = .ok i := by
  rw [decode, decodeBus_write _ (busWe_busWord true rn d), busRn_busWord, busData_busWord, h]

/-- A built read names RD, whatever its data bits. -/
theorem decode_busWord_read (rn : RegNum) (d : Half) : decode (.bus (busWord false rn d)) = .ok (.rd rn) := by
  rw [decode, decodeBus_read _ (busWe_busWord false rn d), busRn_busWord]

/-- With CLR's opcode any mask is one of CLR (R94). -/
theorem decodeCmd_cmdWord_clr (m : BitVec 4) : decodeCmd (cmdWord m 7) = .ok (.clr m) := by
  obtain ⟨hop, hm, hz0, hz1⟩ := cmdWord_fields m 7
  simp only [decodeCmd, hz1, hz0, hop, hm, ne_eq, not_true_eq_false, or_self, ↓reduceIte]

/-! ## The operands in the data of a write (30_encoding.md R95, R96) -/

/-- WRCTRL's data: IE over STRICT. -/
theorem wrctrlData_bits (ie strict : Bool) :
    ((0 : BitVec 14) ++ BitVec.ofBool ie ++ BitVec.ofBool strict).getLsbD 1 = ie
      ∧ ((0 : BitVec 14) ++ BitVec.ofBool ie ++ BitVec.ofBool strict).getLsbD 0 = strict := by
  cases ie <;> cases strict <;> decide

/-- ACK's data: bit 0 alone. -/
theorem ackData_bit (a : Bool) : ((0 : BitVec 15) ++ BitVec.ofBool a).getLsbD 0 = a := by
  cases a <;> decide

/-- IPUSH's data: the unknown-word marker is the top bit, over the index. -/
theorem ipushData_marker (unk : Bool) (n : Idx) : (BitVec.ofBool unk ++ (0 : BitVec 4) ++ n).getLsbD 15 = unk := by
  simp only [BitVec.getLsbD_append]
  simp

/-- Settles O43: a command word has the opcode of its row; a transaction has the register number of its row, and its data hold the
operands. -/
theorem decodingTheEncodingGivesTheInstruction : Obligations.DecodingTheEncodingGivesTheInstruction := by
  intro i
  cases i with
  | nop | loade | rande | encode | decode | verify | seed => rfl
  | clr m => exact decodeCmd_cmdWord_clr m
  | rd rn => exact decode_busWord_read rn 0
  | cmdwr w => exact decode_busWord_write rfl
  | wrctrl ie strict =>
    obtain ⟨hie, hstrict⟩ := wrctrlData_bits ie strict
    exact decode_busWord_write (by simp only [decodeWrite, hie, hstrict, ↓reduceIte])
  | ack a => exact decode_busWord_write (by simp only [decodeWrite, ackData_bit, BitVec.reduceEq, ↓reduceIte])
  | ipush unk n =>
    exact decode_busWord_write
      (by simp only [decodeWrite, ipushData_marker, BitVec.extractLsb'_append_eq_right, BitVec.reduceEq, ↓reduceIte])
  | wrlang _ | epush _ | ppush _ =>
    exact decode_busWord_write (by simp only [decodeWrite, BitVec.extractLsb'_append_eq_right, BitVec.reduceEq, ↓reduceIte])

/-! ## The legal words (30_encoding.md R97, R100) -/

/-- Every legal command word is the word of an instruction (R93, R94). -/
theorem exists_encode_of_legalCmd {w : CmdWord} (h : WellFormed.legalCmd w = true) : ∃ i, encode i = .cmd w := by
  obtain ⟨⟨hz1, hz0⟩, hm, hop⟩ := (legalCmd_iff w).mp h
  rw [← cmdWord_of_fields w hz0 hz1]
  by_cases hclr : cmdOp w = 7
  · exact ⟨.clr (cmdM w), by rw [hclr]; rfl⟩
  · rw [hm.resolve_right hclr]
    rcases (op_lt_eight_iff _).mp hop with h | h | h | h | h | h | h | h
    case inr.inr.inr.inr.inr.inr.inr => exact absurd h hclr
    all_goals rw [h]
    exacts [⟨.nop, rfl⟩, ⟨.loade, rfl⟩, ⟨.rande, rfl⟩, ⟨.encode, rfl⟩, ⟨.decode, rfl⟩, ⟨.verify, rfl⟩, ⟨.seed, rfl⟩]

theorem legalCmd_of_decodeCmd {w : CmdWord} {i : Instr} (h : decodeCmd w = .ok i) : WellFormed.legalCmd w = true := by
  by_contra hl
  rw [decodeCmd_of_not_legal (Bool.eq_false_of_not_eq_true hl)] at h
  cases h

/-- A legal command word names the command it encodes. -/
theorem decodeCmd_ok_iff_legal (w : CmdWord) : (∃ i, decodeCmd w = .ok i) ↔ WellFormed.legalCmd w = true := by
  refine ⟨fun ⟨_, h⟩ => legalCmd_of_decodeCmd h, fun h => ?_⟩
  obtain ⟨i, hi⟩ := exists_encode_of_legalCmd h
  exact ⟨i, by simpa [hi, decode] using decodingTheEncodingGivesTheInstruction i⟩

/-- The seven register numbers of R72, each by its value. -/
theorem writable_iff (rn : RegNum) : WellFormed.writable rn = true ↔
    rn = 0x001 ∨ rn = 0x002 ∨ rn = 0x003 ∨ rn = 0x006 ∨ rn = 0x010 ∨ rn = 0x011 ∨ rn = 0x012 := by
  simp [WellFormed.writable, ← BitVec.toNat_inj]

/-- A write names an operation, whatever its data, exactly when its register number is writable (R72). -/
theorem decodeWrite_ok_iff_writable (rn : RegNum) (d : Half) :
    (∃ i, decodeWrite rn d = .ok i) ↔ WellFormed.writable rn = true := by
  rw [writable_iff]
  constructor
  · rintro ⟨i, hi⟩
    by_contra hne
    simp only [not_or] at hne
    simp only [decodeWrite, hne, if_false, reduceCtorEq] at hi
  · rintro (rfl | rfl | rfl | rfl | rfl | rfl | rfl) <;> exact ⟨_, rfl⟩

/-- Settles O44: a command word by the law of legal words, a write by its register number, and every read. -/
theorem decoderAcceptsExactlyTheLegalWords : Obligations.DecoderAcceptsExactlyTheLegalWords := by
  intro c
  cases c with
  | cmd w => exact decodeCmd_ok_iff_legal w
  | bus b =>
    rw [CodeWord.wellFormed, WellFormed.operation, ← busWe, ← busRn, decode]
    cases hwe : busWe b
    · simp [decodeBus_read b hwe]
    · simpa [decodeBus_write b hwe] using decodeWrite_ok_iff_writable (busRn b) (busData b)

/-- Settles O45: a word the decoder reads is legal, so it encodes some command, and by the round trip that is the command read. -/
theorem commandWordsHaveNoIgnoredBits : Obligations.CommandWordsHaveNoIgnoredBits := by
  intro w i hi
  obtain ⟨j, hj⟩ := exists_encode_of_legalCmd (legalCmd_of_decodeCmd hi)
  have hij : (.ok j : Except Reject Instr) = .ok i := by
    rw [← decodingTheEncodingGivesTheInstruction j, hj, decode, hi]
  cases hij
  exact ⟨hj, isCommand_of_decodeCmd hi⟩

/-- Settles O46: the decoder, run on the eleven words. -/
theorem listedWordsDecode : Obligations.ListedWordsDecode := by
  unfold Obligations.ListedWordsDecode
  decide

/-! ## The pseudo-operation `wait` (30_encoding.md R99) -/

/-- One round of `wait` reads STATUS, and goes on outside BUSY alone. -/
theorem hostPart_wait {s : State} {rest : List HostCycle} (hh : s.host = .wait :: rest) :
    hostPart s = .next { s with rdata := statusWord s, host := if s.phase = .busy then s.host else rest } := by
  simp only [hostPart, hh, pollStatus, exec, execRd, andThen, regRead_status, statusWord_busy, decide_eq_true_eq]
  split
  · rw [← hh]
  · rfl

/-- Settles O39, from what one round of `wait` does. -/
theorem waitPollsStatus : Obligations.WaitPollsStatus := by
  intro s rest hh
  rw [step_of_not_reset (by simp [hh]), hostPart_wait hh, andThen]
  exact ⟨fun hp => by rw [if_neg hp, if_neg hp], fun hp => by rw [if_pos hp, if_pos hp]⟩

end Sys2Proof.Machine
end

section
/-! PROOFS. The seven host writes: what each data word names, and what the write it names does in IDLE (40_host_port.md R110 to R117). -/

namespace Sys2Proof.Machine

/-! ## Operands and effects of the writes (30_encoding.md R95, 40_host_port.md R110 to R117) -/

/-- The write that a register number and its data name, and what it does in IDLE (R72). -/
theorem decode_and_exec_write_idle {rn : RegNum} {d : Half} {i : Instr} (h : decodeWrite rn d = .ok i) {s t : State}
    (hp : s.phase = .idle) (ht : writeEffect i s = t) :
    decode (.bus (busWord true rn d)) = .ok i ∧ exec i s = .next t := by
  refine ⟨decode_busWord_write h, ?_⟩
  subst ht
  unfold decodeWrite at h
  split_ifs at h <;> cases h <;> exact (exec_write rfl (by simp) s).trans (hostWrite_idle _ hp)

/-- CTRL shows the two low bits of the data written to it (R38, R110). -/
theorem ctrlWord_of_bits {s : State} {v : Half} (hstrict : s.strict = v.getLsbD 0) (hie : s.ie = v.getLsbD 1) :
    ctrlWord s = v &&& 0x0003 := by
  have hmask : (v &&& 0x0003).toNat = v.toNat % 4 := Nat.and_two_pow_sub_one_eq_mod v.toNat 2
  refine BitVec.eq_of_toNat_eq ?_
  rw [ctrlWord_eq, hstrict, hie, hmask, BitVec.toNat_ofNat, BitVec.getLsbD, BitVec.getLsbD, Nat.toNat_testBit, Nat.toNat_testBit]
  omega

/-- The counters ELEN and WCNT stop at 255 (R26, R28). -/
theorem satInc_eq_ofNat (c : Byte) : satInc c = BitVec.ofNat 8 (min (c.toNat + 1) 255) := by
  rw [← toNat_satInc, BitVec.ofNat_toNat, BitVec.setWidth_eq]

/-- The opcode of an encoded command word, as a number (R92, R93). -/
theorem toNat_mod_of_cmdWord {w : CmdWord} {m op : BitVec 4} (h : CodeWord.cmd (cmdWord m op) = .cmd w) :
    w.toNat % 16 = op.toNat := by
  obtain ⟨hop, -, -, -⟩ := cmdWord_fields m op
  cases h
  exact (BitVec.extractLsb'_toNat 0 4 (cmdWord m op)).symm.trans (congrArg BitVec.toNat hop)

theorem not_legalCmd_of_decodeCmd {w : CmdWord} {r : Reject} (h : decodeCmd w = .error r) : WellFormed.legalCmd w = false := by
  refine Bool.eq_false_of_not_eq_true fun hl => ?_
  obtain ⟨i, hi⟩ := (decodeCmd_ok_iff_legal w).mpr hl
  rw [h] at hi
  cases hi

/-! ## The statements about the writes of CTRL, LANG and STATUS -/

/-- Settles O13: WRCTRL's operands are the two low bits of its data, and CTRL in IDLE reads as those bits. -/
theorem wrctrlStoresStrictAndIe : Obligations.WrctrlStoresStrictAndIe := by
  intro s v hp
  obtain ⟨hdecode, hexec⟩ := decode_and_exec_write_idle (rn := 0x001) (d := v) rfl hp rfl
  refine ⟨hdecode, _, hexec, rfl, ?_, rfl⟩
  rw [regRead_idle _ (by exact hp)]
  exact ctrlWord_of_bits rfl rfl

/-- Settles O14: the four low bits are the code, and a code over 9 changes nothing. -/
theorem wrlangStoresLegalCodes : Obligations.WrlangStoresLegalCodes := by
  intro s v hp
  refine decode_and_exec_write_idle rfl hp ?_
  have hcode : (v.extractLsb' 0 4).toNat = v.toNat % 16 := BitVec.extractLsb'_toNat 0 4 v
  simp only [writeEffect, hcode]
  split
  · rfl
  · rfl

/-- Settles O15: a 1 clears DONE, on which `irq` depends; a 0 changes nothing. -/
theorem ackClearsDone : Obligations.AckClearsDone := by
  intro s v hp
  refine ⟨decode_busWord_write rfl, ?_, fun t ht => ?_⟩
  · refine (decode_and_exec_write_idle (rn := 0x003) (d := v) rfl hp ?_).2
    cases v.getLsbD 0 <;> simp [writeEffect]
  · have hack : exec (.ack true) s = .next { s with done := false } := hostWrite_idle _ hp
    rw [hack] at ht
    cases ht
    exact Bool.and_false _

/-! ## The statements about the pushes -/

/-- Settles O16: EPUSH is its effect, with ELEN's next value as a number. -/
theorem epushAppendsAByte : Obligations.EpushAppendsAByte := by
  intro s v hp
  refine decode_and_exec_write_idle rfl hp ?_
  rw [writeEffect, pushEntropy, satInc_eq_ofNat]
  rfl

/-- Settles O17: IPUSH is its effect, with WCNT's next value as a number; the record of the first unknown word depends on the marker and
on UNKSEEN alone. -/
theorem ipushAppendsAnIndex : Obligations.IpushAppendsAnIndex := by
  intro s v hp
  refine decode_and_exec_write_idle rfl hp ?_
  rw [writeEffect, pushIndex, satInc_eq_ofNat]
  cases hmarked : v.getLsbD 15 <;> cases hseen : s.unkseen <;> rfl

/-- Settles O18: PPUSH with room in PASS, and with none. -/
theorem ppushAppendsOrOverflows : Obligations.PpushAppendsOrOverflows := by
  intro s v hp
  refine ⟨decode_busWord_write rfl, fun hroom => (decode_and_exec_write_idle (rn := 0x012) (d := v) rfl hp ?_).2,
    fun hfull => (decode_and_exec_write_idle (rn := 0x012) (d := v) rfl hp ?_).2⟩
  · have hplen : s.plen + 1 = BitVec.ofNat 9 (s.plen.toNat + 1) := by bv_omega
    rw [writeEffect, pushPass_of_room hroom, hplen]
    rfl
  · rw [writeEffect, pushPass_of_full (Nat.not_lt.mpr hfull)]
    rfl

/-! ## The statement about the command write -/

/-- Settles O19: an illegal word is latched and invalidates nothing; a legal one invalidates what its opcode says. -/
theorem commandWriteAccepts : Obligations.CommandWriteAccepts := by
  intro s w
  refine ⟨fun hp => ?_, hostWrite_not_idle _⟩
  have haccept : exec (.cmdwr w) s = .next (accept w s) := hostWrite_idle _ hp
  cases hd : decodeCmd w with
  | error r =>
    refine ⟨some (Config.tBusy s.fresh), ?_⟩
    rw [haccept, accept_error hd, not_legalCmd_of_decodeCmd hd]
    rfl
  | ok i =>
    obtain ⟨k, hk⟩ := accept_ok hd s
    obtain ⟨hencode, -⟩ := commandWordsHaveNoIgnoredBits w i hd
    refine ⟨k, ?_⟩
    rw [haccept, hk, legalCmd_of_decodeCmd hd]
    rcases decodeCmd_ok_cases hd with rfl | rfl | rfl | rfl | rfl | rfl | rfl | rfl
    all_goals
      rw [toNat_mod_of_cmdWord hencode]
      rfl

end Sys2Proof.Machine
end

section
/-! PROOFS. The three constructors of an entropy, LOADE, RANDE and DECODE: the checksum each sets, and the row of TRIPLES it leaves
(41_entropy_commands.md R130 to R134). -/

namespace Sys2Proof.Machine

/-! ## The completion of a constructor (41_entropy_commands.md R130 to R133, 42_codec_commands.md R145) -/

/-- In BUSY a command is its effect (R20). -/
theorem exec_busy {i : Instr} (hi : isCommand i = true) {s : State} (hb : s.phase = .busy) :
    exec i s = .next (completionEffect i s) := (exec_command hi s).trans (atCompletion_busy _ hb)

/-- Every legal entropy length fits ENT (R8). -/
theorem le_32_of_legal {n : Nat} (h : n ∈ [16, 20, 24, 28, 32]) : n ≤ 32 := by
  simp only [List.mem_cons, List.not_mem_nil, or_false] at h
  omega

/-- The checksum of an entropy that fits ENT, as the registers hold it (R32, R130). -/
theorem setChecksum_checksum (sha : List Byte → Digest) {e : List Byte} (he : e.length ≤ 32) (s : State) :
    setChecksum (checksum sha e) s =
      { s with
        cslen := BitVec.ofNat 4 (e.length / 4), csum := (sha e)[0] >>> (8 - e.length / 4), evalid := true } := by
  rw [setChecksum, checksum_fst, checksum_snd sha e he, BitVec.ofNat_toNat, BitVec.setWidth_eq]

/-- The indices held unpack to an entropy of a legal length (R84, R144). -/
theorem length_ent_of_unpackHeld {s : State} {u : Unpacked} (h : unpackHeld s = some u) :
    u.ent.length ∈ [16, 20, 24, 28, 32] := by
  obtain ⟨hw, hlen, -, -⟩ := unpackHeld_sizes h
  simp only [List.mem_cons, List.not_mem_nil, or_false] at hw ⊢
  omega

/-! ## The statements about LOADE and RANDE -/

/-- Settles O22: with a legal length the entropy is the leading part of ENT and its checksum is set; with any other the error is. -/
theorem loadeConstructsOrRejects : Obligations.LoadeConstructsOrRejects := by
  intro s hb
  have hexec : exec .loade s = .next (loade Config.sha256 s) := exec_busy rfl hb
  refine ⟨fun hl => ?_, fun hl => ?_⟩
  · have hlegal := (tripleOfElen_isSome_iff _).mpr hl
    have hfit := le_32_of_legal hl
    rw [hexec, loade_of_legal hlegal, setChecksum_checksum _ (by simpa using hfit), length_entropyOf, ← entropyOf_eq_take s hfit]
    exact ⟨rfl, if_pos hlegal⟩
  · have hillegal := mt (tripleOfElen_isSome_iff _).mp hl
    have hinfo : errLayout (.invalidEntropyLength s.elen) = s.elen.setWidth 16 := (BitVec.setWidth_eq_append (by decide)).symm
    rw [hexec, loade_of_illegal hillegal, failWith, hinfo]
    exact ⟨rfl, if_neg hillegal⟩

/-- Settles O23: a draw has 32 bytes, so CSLEN is 8 and CSUM the whole first byte of its digest. -/
theorem randeConstructsFromTheDraw : Obligations.RandeConstructsFromTheDraw := by
  intro s hb r
  have hlen : r.toList.length = 32 := Vector.length_toList
  have hwhole : (Config.sha256 r.toList)[0] >>> (8 - 32 / 4) = (Config.sha256 r.toList)[0] := BitVec.ushiftRight_zero _
  have hexec : exec .rande s = .next (rande Config.sha256 r { s with fresh := s.fresh + 1 }) := exec_busy rfl hb
  refine ⟨?_, rfl⟩
  rw [hexec, rande, setChecksum_checksum _ hlen.le, hlen, hwhole]
  rfl

/-! ## The statement about the three constructors -/

/-- A failed completion writes a code to ERR (R230, R231). -/
theorem failWith_err_ne_zero (e : CommandError) (s : State) : (failWith e s).err ≠ 0 := by
  intro h
  have hcode := (errCode_range e).1
  rw [← failWith_err e s, h] at hcode
  exact absurd hcode (by decide)

/-- ELEN and CSLEN are a row of TRIPLES (R134). -/
def HoldsTripleRow (s : State) : Prop :=
  (s.elen.toNat, s.cslen.toNat) ∈ [(16, 4), (20, 5), (24, 6), (28, 7), (32, 8)]

/-- A checksum set for as many bytes as ELEN says makes ELEN and CSLEN a row, when ELEN is a legal length (R130). -/
theorem holdsTripleRow_finish_setChecksum (sha : List Byte → Digest) {e : List Byte} {s : State}
    (hs : s.elen = BitVec.ofNat 8 e.length) (he : e.length ∈ [16, 20, 24, 28, 32]) :
    HoldsTripleRow (finish (setChecksum (checksum sha e) s)) := by
  rw [HoldsTripleRow, finish_elen, finish_cslen, setChecksum_elen, setChecksum_cslen, checksum_fst, hs]
  generalize e.length = n at he
  revert n
  decide

theorem holdsTripleRow_loade {sha : List Byte → Digest} {s : State} (h : (loade sha s).err = 0) :
    HoldsTripleRow (loade sha s) := by
  by_cases hl : (tripleOfElen s.elen.toNat).isSome = true
  · rw [loade_of_legal hl]
    refine holdsTripleRow_finish_setChecksum sha (by simp) ?_
    rwa [length_entropyOf, ← tripleOfElen_isSome_iff]
  · rw [loade_of_illegal hl] at h
    exact absurd h (failWith_err_ne_zero _ _)

theorem holdsTripleRow_rande (sha : List Byte → Digest) (r : Vector Byte 32) (s : State) :
    HoldsTripleRow (rande sha r s) := by
  have hlen : r.toList.length = 32 := Vector.length_toList
  exact holdsTripleRow_finish_setChecksum sha (by rw [hlen]; rfl) (by rw [hlen]; decide)

theorem holdsTripleRow_strip {sha : List Byte → Digest} {u : Unpacked} {s : State} (hu : u.ent.length ∈ [16, 20, 24, 28, 32])
    (h : (strip u (checksum sha u.ent) s).err = 0) : HoldsTripleRow (strip u (checksum sha u.ent) s) := by
  by_cases hm : s.strict = true ∧ (checksum sha u.ent).2 ≠ u.x
  · rw [strip_of_mismatch hm] at h
    exact absurd h (failWith_err_ne_zero _ _)
  · rw [strip_of_accepted hm]
    exact holdsTripleRow_finish_setChecksum sha rfl hu

theorem holdsTripleRow_decodeHeld {sha : List Byte → Digest} {s : State} (h : (decodeHeld sha s).err = 0) :
    HoldsTripleRow (decodeHeld sha s) := by
  cases hk : s.unkseen with
  | true =>
    rw [decodeHeld_of_unknown hk] at h
    exact absurd h (failWith_err_ne_zero _ _)
  | false =>
    cases hu : unpackHeld s with
    | none =>
      rw [decodeHeld_of_bad_count hk hu] at h
      exact absurd h (failWith_err_ne_zero _ _)
    | some u =>
      rw [decodeHeld_of_unpacked hk hu] at h ⊢
      exact holdsTripleRow_strip (length_ent_of_unpackHeld hu) h

/-- Settles O50: a constructor that fails writes a code to ERR, and one that succeeds sets the checksum of ELEN bytes. -/
theorem constructorsSetTheChecksumLength : Obligations.ConstructorsSetTheChecksumLength := by
  intro s t i hb hi hs herr
  have hcommand : isCommand i = true := by rcases hi with rfl | rfl | rfl <;> rfl
  rw [exec_busy hcommand hb] at hs
  cases hs
  rcases hi with rfl | rfl | rfl
  · exact holdsTripleRow_loade herr
  · exact holdsTripleRow_rande _ _ _
  · exact holdsTripleRow_decodeHeld herr

end Sys2Proof.Machine
end

section
/-! PROOFS. The completions of ENCODE, DECODE and VERIFY, from the bits of the register files to the bits of the result
(42_codec_commands.md R140 to R149). -/

namespace Sys2Proof.Machine

/-! ## The details in ERRINFO as numbers (60_exceptions.md R232) -/

/-- A byte below another field is a number in base 256. -/
theorem append_byte_eq_ofNat {w : Nat} (hi : BitVec w) (lo : Byte) : hi ++ lo = BitVec.ofNat (w + 8) (hi.toNat * 256 + lo.toNat) := by
  refine BitVec.eq_of_toNat_eq ?_
  have hlt : hi.toNat * 256 + lo.toNat < 2 ^ (w + 8) := by
    rw [pow_add]
    have := hi.isLt
    have := lo.isLt
    omega
  rw [BitVec.toNat_append, ← Nat.shiftLeft_add_eq_or_of_lt lo.isLt, Nat.shiftLeft_eq, BitVec.toNat_ofNat, Nat.mod_eq_of_lt hlt]

theorem errLayout_unknownWord (pos : Byte) (lang : BitVec 4) :
    errLayout (.unknownWord pos lang) = BitVec.ofNat 16 (lang.toNat * 256 + pos.toNat) := by
  rw [errLayout, append_byte_eq_ofNat, BitVec.toNat_append]
  simp

theorem errLayout_invalidSentenceLength (wcnt : Byte) : errLayout (.invalidSentenceLength wcnt) = wcnt.setWidth 16 :=
  (BitVec.setWidth_eq_append (by decide)).symm

/-! ## ENCODE: the count check and the packed bits (R140 to R143) -/

theorem length_heldBits (s : State) : (heldBits s).length = 8 * s.elen.toNat + s.cslen.toNat := by simp [heldBits, packed]

/-- With a legal length the count check asks for exactly the bits of the table's words (R143). -/
theorem countCheck_eq_decide {s : State} (hl : s.elen.toNat ∈ [16, 20, 24, 28, 32]) :
    countCheck s = decide (8 * s.elen.toNat + s.cslen.toNat = 11 * (3 * s.elen.toNat / 4)) := by
  rw [countCheck, tripleOfElen_of_mem hl, length_heldBits, Bool.eq_iff_iff]
  simp only [Bool.and_eq_true, beq_iff_eq, decide_eq_true_eq]
  omega

/-- A count check that passes has met the table: a legal length, and its words (R143). -/
theorem legal_of_countCheck {s : State} (hc : countCheck s = true) :
    s.elen.toNat ∈ [16, 20, 24, 28, 32] ∧ (heldBits s).length = 11 * (3 * s.elen.toNat / 4) := by
  have hl : s.elen.toNat ∈ [16, 20, 24, 28, 32] := by
    rw [← tripleOfElen_isSome_iff]
    cases ht : tripleOfElen s.elen.toNat with
    | none => simp [countCheck, ht] at hc
    | some t => rfl
  exact ⟨hl, by rwa [countCheck_eq_decide hl, decide_eq_true_eq, ← length_heldBits] at hc⟩

/-- The bits ENCODE packs are the bits of the registers; where CSUM does not fit, those of the entropy only (R140). -/
theorem getElem?_heldBits {s : State} (he : s.elen.toNat ≤ 32) {p : Nat} (hp : p < 8 * s.elen.toNat + s.cslen.toNat)
    (hfit : p < 8 * s.elen.toNat ∨ s.csum.toNat < 2 ^ s.cslen.toNat) : (heldBits s)[p]? = some (packedBit s p) := by
  have hlen : (bitsOf (entropyOf s)).length = 8 * s.elen.toNat := by simp
  rw [heldBits, packed, packedBit]
  by_cases hent : p < 8 * s.elen.toNat
  · have hj : p / 8 < (entropyOf s).length := by rw [length_entropyOf]; omega
    have hbyte : (entropyOf s)[p / 8] = s.ent.getD (p / 8) 0 := by
      simp [entropyOf, show p / 8 < 32 by omega]
    rw [if_pos hent, List.getElem?_append_left (by omega), bitsOf]
    conv_lhs => rw [← Nat.div_add_mod p 8]
    rw [getElem_flatMap_pieces _ 8 (fun _ => length_bin _ _) _ _ _ hj (by omega), hbyte, getElem?_bin_toNat _ _ (by omega)]
  · have hk : p - 8 * s.elen.toNat < (bin s.cslen.toNat s.csum.toNat).length := by rw [length_bin]; omega
    rw [if_neg hent, List.getElem?_append_right (by omega), hlen, binFree_of_lt (hfit.resolve_left hent),
      List.getElem?_eq_getElem hk, getElem_bin]
    rfl

/-- Bit `k` of index `i` is bit `11*i + k` of what is packed (R141). -/
theorem getMsbD_fill_groups {B : List Bool} {i k : Nat} {b : Bool} (hi : i < B.length / 11) (h24 : i < 24) (hk : k < 11)
    (hb : B[11 * i + k]? = some b) : ((fill 24 (groups B)).getD i 0).getMsbD k = b := by
  have hg : i < (groups B).length := by rwa [length_groups]
  rw [getD_fill 24 _ i h24, List.getD_eq_getElem _ 0 hg, ← Option.some_inj, getElem_groups B i k hg hk, hb]

/-! ## The statements about ENCODE -/

/-- Settles O24: the count check passes, and a bit of a group is a bit of the registers. -/
theorem encodePacksTheBits : Obligations.EncodePacksTheBits := by
  intro s hb he hl hcs
  have hm := hl
  simp only [List.mem_cons, List.not_mem_nil, or_false] at hm
  have hcheck : countCheck s = true := by
    rw [countCheck_eq_decide hl, decide_eq_true_eq]
    omega
  have hcount : (heldBits s).length / 11 = 3 * s.elen.toNat / 4 := by
    have := (legal_of_countCheck hcheck).2
    omega
  have hexec : exec .encode s = .next (encodeHeld s) := exec_busy rfl hb
  rw [hexec, encodeHeld_of_count_ok he hcheck, hcount]
  refine ⟨_, rfl, rfl, fun i k hi hk hfit => ?_, fun i hi => getD_fill_tail 24 (by rwa [length_groups, hcount])⟩
  have hbit := getElem?_heldBits (le_32_of_legal hl) (p := 11 * i + k) (by omega) hfit
  exact getMsbD_fill_groups (hi.trans_eq hcount.symm) (by omega) hk hbit

/-- Settles O25: the check for an entropy comes first. -/
theorem encodeNeedsAnEntropy : Obligations.EncodeNeedsAnEntropy := by
  intro s hb he
  have hexec : exec .encode s = .next (encodeHeld s) := exec_busy rfl hb
  rw [hexec, encodeHeld_of_no_entropy he]
  rfl

/-- Settles O26: the count check fails, and the two counts of its report fit in a byte each. -/
theorem encodeCountMismatchIsFatal : Obligations.EncodeCountMismatchIsFatal := by
  intro s hb he hl hne
  have hcheck : countCheck s = false := by rw [countCheck_eq_decide hl, decide_eq_false hne]
  have hms : expectedMs s = BitVec.ofNat 8 (3 * s.elen.toNat / 4) := by rw [expectedMs, tripleOfElen_of_mem hl]
  have h32 := le_32_of_legal hl
  have hcs := s.cslen.isLt
  have hinfo (n : Nat) (hn : n < 256) : errLayout (.internalInvariantViolation (BitVec.ofNat 8 n) (expectedMs s))
      = BitVec.ofNat 16 ((3 * s.elen.toNat / 4) * 256 + n) := by
    rw [errLayout, append_byte_eq_ofNat, hms, BitVec.toNat_ofNat, BitVec.toNat_ofNat, Nat.mod_eq_of_lt (by omega),
      Nat.mod_eq_of_lt hn]
  have hexec : exec .encode s = .next (encodeHeld s) := exec_busy rfl hb
  rw [hexec, encodeHeld_of_count_mismatch he hcheck, length_heldBits, enterFault, hinfo _ (by omega)]
  rfl

/-! ## DECODE: the strip of the indices held (R144) -/

/-- The indices held are WCNT in number, when WCNT is legal. -/
theorem length_indicesOf_of_legal {s : State} (hw : s.wcnt.toNat ∈ [12, 15, 18, 21, 24]) :
    (indicesOf s).length = s.wcnt.toNat := by
  rw [length_indicesOf]
  simp only [List.mem_cons, List.not_mem_nil, or_false] at hw
  omega

theorem getElem_indicesOf (s : State) {i : Nat} (hi : i < (indicesOf s).length) : (indicesOf s)[i] = s.idx.getD i 0 := by
  have hlen : i < s.wcnt.toNat ∧ i < 24 := by rwa [length_indicesOf, lt_min_iff] at hi
  simp [indicesOf, Vector.getD, hlen.2]

/-- The bits DECODE strips are the bits of the registers. -/
theorem getElem?_indexBits_indicesOf (s : State) {p : Nat} (hp : p < 11 * (indicesOf s).length) :
    (indexBits (indicesOf s))[p]? = some (heldBit s p) := by
  have hi : p / 11 < (indicesOf s).length := by omega
  rw [indexBits, heldBit, ← getElem_indicesOf s hi]
  conv_lhs => rw [← Nat.div_add_mod p 11]
  rw [getElem_flatMap_pieces _ 11 (fun _ => length_bin _ _) _ _ _ hi (by omega), getElem?_bin_toNat _ _ (by omega)]

/-- A byte sequence is the bytes cut from the front of a bit sequence when its bits are those bits (R144). -/
theorem map_slices_eq {B : List Bool} {e : List Byte} (hB : 8 * e.length ≤ B.length)
    (he : ∀ j k, j < e.length → k < 8 → B[8 * j + k]? = some ((e.getD j 0).getMsbD k)) :
    ((List.range e.length).map fun j => BitVec.ofNat 8 (uint (slice B (8 * j) 8))) = e := by
  refine List.ext_getElem (by simp) fun j _ hj => ?_
  simp only [List.getElem_map, List.getElem_range]
  refine BitVec.eq_of_getMsbD_eq fun k hk => ?_
  have hlen : (slice B (8 * j) 8).length = 8 := length_slice (by omega)
  rw [← Option.some_inj, ofNat_uint_getMsbD _ hlen k hk, slice, List.getElem?_take, if_pos hk, List.getElem?_drop, he j k hj hk,
    List.getD_eq_getElem e 0 hj]

/-- The last `cs` bits of an index sequence are the low bits of the last index (R144). -/
theorem uint_slice_indexBits_last (ns : List Idx) {i cs n : Nat} (hcs : cs ≤ 11) (hi : i < ns.length)
    (hn : n + cs = 11 * (i + 1)) : uint (slice (indexBits ns) n cs) = ns[i].toNat % 2 ^ cs := by
  rw [← uint_bin_mod]
  congr 1
  have hlen : (slice (indexBits ns) n cs).length = cs := length_slice (by rw [length_indexBits]; omega)
  refine List.ext_getElem (by rw [hlen, length_bin]) fun k hk _ => ?_
  have hk' : k < cs := hlen ▸ hk
  have hlast : (indexBits ns)[n + k]? = (bin 11 ns[i].toNat)[11 - cs + k]? := by
    rw [show n + k = 11 * i + (11 - cs + k) by omega]
    exact getElem_flatMap_pieces _ 11 (fun _ => length_bin _ _) ns i _ hi (by omega)
  rw [getElem_slice hk, ← Option.some_inj, ← List.getElem?_eq_getElem, hlast,
    List.getElem?_eq_getElem (by rw [length_bin]; omega), getElem_bin, getElem_bin]
  congr 2
  omega

/-- The strip of the indices held, from the bits of the registers (R144). -/
theorem unpackHeld_of_bits {s : State} {e : List Byte} (hw : s.wcnt.toNat ∈ [12, 15, 18, 21, 24])
    (hlen : e.length = 4 * s.wcnt.toNat / 3)
    (he : ∀ j k, j < 4 * s.wcnt.toNat / 3 → k < 8 → (e.getD j 0).getMsbD k = heldBit s (8 * j + k)) :
    unpackHeld s
      = some ⟨e, s.wcnt.toNat / 3, (s.idx.getD (s.wcnt.toNat - 1) 0).toNat % 2 ^ (s.wcnt.toNat / 3)⟩ := by
  have hn := length_indicesOf_of_legal hw
  have hm := hw
  simp only [List.mem_cons, List.not_mem_nil, or_false] at hm
  have hbytes : (11 * s.wcnt.toNat - s.wcnt.toNat / 3) / 8 = e.length := by omega
  have hent := map_slices_eq (B := indexBits (indicesOf s)) (e := e) (by rw [length_indexBits]; omega) fun j k hj hk => by
    rw [getElem?_indexBits_indicesOf s (by omega), he j k (by omega) hk]
  have hx := uint_slice_indexBits_last (indicesOf s) (i := s.wcnt.toNat - 1) (cs := s.wcnt.toNat / 3) (n := 8 * e.length)
    (by omega) (by omega) (by omega)
  rw [getElem_indicesOf] at hx
  simp only [unpackHeld, unpack, hn, tripleOfMs_of_mem hw, hbytes, hent, hx]

/-- The recomputed checksum and an embedded one agree as numbers exactly when they do as bytes (R145). -/
theorem checksum_snd_eq_iff (sha : List Byte → Digest) {e : List Byte} (he : e.length ≤ 32) {x : Nat} (hx : x < 256) :
    (checksum sha e).2 = x ↔ (sha e)[0] >>> (8 - e.length / 4) = BitVec.ofNat 8 x := by
  rw [checksum_snd sha e he, ← BitVec.toNat_inj, BitVec.toNat_ofNat, Nat.mod_eq_of_lt hx]

/-! ## The statements about DECODE and VERIFY -/

/-- An embedded checksum fits in a byte (R34). -/
theorem embedded_lt {m : Nat} (hm : m ∈ [12, 15, 18, 21, 24]) (v : Nat) : v % 2 ^ (m / 3) < 256 := by
  simp only [List.mem_cons, List.not_mem_nil, or_false] at hm
  have h8 : 2 ^ (m / 3) ≤ 2 ^ 8 := Nat.pow_le_pow_right (by decide) (by omega)
  exact (Nat.mod_lt _ (Nat.two_pow_pos _)).trans_le h8

/-- The sizes of the entropy recovered from `m` words (R84). -/
theorem recovered_sizes {m n : Nat} (hm : m ∈ [12, 15, 18, 21, 24]) (hn : n = 4 * m / 3) : n ≤ 32 ∧ n / 4 = m / 3 := by
  simp only [List.mem_cons, List.not_mem_nil, or_false] at hm
  omega

/-- A DECODE whose input checks pass strips the bits of the registers (R145). -/
theorem exec_decode_of_bits {s : State} {e : List Byte} (hb : s.phase = .busy) (hk : s.unkseen = false)
    (hw : s.wcnt.toNat ∈ [12, 15, 18, 21, 24]) (hlen : e.length = 4 * s.wcnt.toNat / 3)
    (he : ∀ j k, j < 4 * s.wcnt.toNat / 3 → k < 8 → (e.getD j 0).getMsbD k = heldBit s (8 * j + k)) :
    exec .decode s = .next
      (strip ⟨e, s.wcnt.toNat / 3, (s.idx.getD (s.wcnt.toNat - 1) 0).toNat % 2 ^ (s.wcnt.toNat / 3)⟩
        (checksum Config.sha256 e) s) :=
  (exec_busy rfl hb).trans (congrArg _ (decodeHeld_of_unpacked hk (unpackHeld_of_bits hw hlen he)))

/-- Settles O27: no mismatch is raised, so the entropy recovered and its checksum are written. -/
theorem decodeRecoversTheEntropy : Obligations.DecodeRecoversTheEntropy := by
  rintro s e _ hb hk rfl hw hlen he c x hok
  obtain ⟨h32, h4⟩ := recovered_sizes hw hlen
  have hiff := checksum_snd_eq_iff Config.sha256 h32 (embedded_lt hw (s.idx.getD (s.wcnt.toNat - 1) 0).toNat)
  rw [h4] at hiff
  rw [exec_decode_of_bits hb hk hw hlen he, strip_of_accepted fun h => ?_, setChecksum_checksum _ h32, h4]
  · refine ⟨_, rfl, ?_, fun j => ?_⟩
    · simp only [finish, hlen, beq_eq_decide, hiff, c, x]
    · rw [finish_ent]
      by_cases hj : j < 32
      · exact getD_fill 32 e j hj
      · rw [getD_of_le _ j (by omega), List.getD_eq_default e 0 (by omega)]
  · obtain hs | heq := hok
    · exact absurd h.1 (by simp [hs])
    · exact h.2 (hiff.mpr heq)

/-- Settles O28: the mismatch is raised after the strip's result is written, and before the entropy group is. -/
theorem strictDecodeRejectsAMismatch : Obligations.StrictDecodeRejectsAMismatch := by
  rintro s e _ hb hk rfl hw hlen he c x hs hne
  obtain ⟨h32, h4⟩ := recovered_sizes hw hlen
  have hiff := checksum_snd_eq_iff Config.sha256 h32 (embedded_lt hw (s.idx.getD (s.wcnt.toNat - 1) 0).toNat)
  rw [h4] at hiff
  have hmismatch := mt hiff.mp hne
  have hc : BitVec.ofNat 8 (checksum Config.sha256 e).2 = c := by
    rw [checksum_snd _ e h32, h4, BitVec.ofNat_toNat, BitVec.setWidth_eq]
  rw [exec_decode_of_bits hb hk hw hlen he, strip_of_mismatch ⟨hs, hmismatch⟩, hc, beq_eq_false_iff_ne.mpr hmismatch]
  rfl

/-- Settles O29: the unknown word is looked for before the word count. -/
theorem decodeRejectsBadInput : Obligations.DecodeRejectsBadInput := by
  intro s hb
  have hexec : exec .decode s = .next (decodeHeld Config.sha256 s) := exec_busy rfl hb
  refine ⟨fun hk => ?_, fun hk hw => ?_⟩
  · rw [hexec, decodeHeld_of_unknown hk, failWith, errLayout_unknownWord]
    rfl
  · have hnone : unpackHeld s = none := by rwa [← unpackHeld_isSome_iff, Option.not_isSome_iff_eq_none] at hw
    rw [hexec, decodeHeld_of_bad_count hk hnone, failWith, errLayout_invalidSentenceLength]
    rfl

/-- Settles O30, a case of VERIFY for each clause. -/
theorem verifyReportsTheComparison : Obligations.VerifyReportsTheComparison := by
  intro s hb
  have hexec : exec .verify s = .next (verifyHeld s) := exec_busy rfl hb
  refine ⟨fun hd => ?_, fun hd hc => ?_, fun hd hc => ?_⟩
  · rw [hexec, verifyHeld_of_no_strip hd]
    rfl
  · rw [hexec, verifyHeld_of_mismatch hd hc, failWith, errLayout, append_byte_eq_ofNat]
    rfl
  · rw [hexec, verifyHeld_of_match hd hc]
    rfl

end Sys2Proof.Machine
end

section
/-! PROOFS. What ENCODE, DECODE and VERIFY derive: the count check never fails, the word counts follow the entropy length, and a strip
undoes a packing, as data, on the machine and as sentences (42_codec_commands.md R143, R149 to R151; 46_driver_contract.md R201 to R208). -/

namespace Sys2Proof.Machine

/-! ## The phase after each part of a step (42_codec_commands.md R143) -/

/-- Both outcomes of a test in one phase: the outcome is in it. -/
theorem ite_phase {c : Prop} [Decidable c] {s t : State} {p : Phase} (hs : s.phase = p) (ht : t.phase = p) :
    (if c then s else t).phase = p := by split <;> assumption

theorem decodeHeld_phase (sha : List Byte → Digest) (s : State) : (decodeHeld sha s).phase = .idle := by
  refine ite_phase rfl ?_
  split
  · exact ite_phase rfl rfl
  · rfl

/-- ENCODE ends in IDLE when its count check passes, or has no entropy to check. -/
theorem encodeHeld_phase {s : State} (h : s.evalid = true → countCheck s = true) : (encodeHeld s).phase = .idle := by
  cases he : s.evalid with
  | false => rw [encodeHeld_of_no_entropy he, failWith_phase]
  | true => rw [encodeHeld_of_count_ok he (h he), finish_phase]

/-- The completion of the latched word ends in IDLE, when the count check of an ENCODE passes. -/
theorem latchedEffect_phase {s : State} (h : s.evalid = true → countCheck s = true) : (latchedEffect s).phase = .idle := by
  cases hd : decodeCmd s.opc with
  | error r => rw [latchedEffect, hd, failWith_phase]
  | ok i =>
    rw [latchedEffect, hd]
    rcases decodeCmd_ok_cases hd with rfl | rfl | rfl | rfl | rfl | rfl | rfl | rfl
    case inr.inl => exact ite_phase rfl rfl
    case inr.inr.inr.inl => exact encodeHeld_phase h
    case inr.inr.inr.inr.inl => exact decodeHeld_phase _ s
    case inr.inr.inr.inr.inr.inl => exact ite_phase rfl (ite_phase rfl rfl)
    case inr.inr.inr.inr.inr.inr.inl => exact ite_phase rfl (ite_phase rfl rfl)
    all_goals rfl

/-- A valid entropy under the invariants has a legal length and its checksum length, and passes the count check. -/
theorem StateInv.countCheck_of_evalid {s : State} (h : StateInv s) (he : s.evalid = true) : countCheck s = true := by
  obtain ⟨hl, hcs, -⟩ := h.entropyValid he
  rw [tripleOfElen_isSome_iff] at hl
  rw [countCheck_eq_decide hl, decide_eq_true_eq]
  simp only [List.mem_cons, List.not_mem_nil, or_false] at hl
  omega

/-- In BUSY the sequencer waits or completes the latched word; under the invariants neither enters FAULT. -/
theorem sequencerPart_phase_ne_fault {s t : State} (h : StateInv s) (hb : s.phase = .busy) (hs : sequencerPart s = .next t) :
    t.phase ≠ .fault := by
  match hw : s.wait with
  | none =>
    rw [sequencerPart_hangs hw] at hs
    cases hs
    simp [hb]
  | some 0 =>
    rw [sequencerPart_due hw, completeLatched_busy hb] at hs
    cases hs
    simp [latchedEffect_phase h.countCheck_of_evalid]
  | some (k + 1) =>
    rw [sequencerPart_waits hw] at hs
    cases hs
    simp [hb]

/-- Acceptance starts a command (R116). -/
theorem accept_phase (w : CmdWord) (s : State) : (accept w s).phase = .busy := by
  cases hd : decodeCmd w with
  | error r => rw [accept_error hd]
  | ok i =>
    obtain ⟨k, hk⟩ := accept_ok hd s
    rw [hk, acceptInvalidate_latch]

/-- No host write but that of CMD changes the phase. -/
theorem writeEffect_phase {i : Instr} (hi : ∀ w, i ≠ .cmdwr w) (s : State) : (writeEffect i s).phase = s.phase := by
  cases i
  case cmdwr w => exact absurd rfl (hi w)
  case ack | wrlang | ppush => exact ite_phase rfl rfl
  all_goals rfl

/-- No access on the host port enters FAULT. -/
theorem hostAccess_phase_ne_fault {s t : State} {b : BusWord} (hp : s.phase ≠ .fault) (hs : hostAccess b s = .next t) :
    t.phase ≠ .fault := by
  unfold hostAccess at hs
  split at hs
  case h_2 =>
    cases hs
    exact hp
  case h_1 i hd =>
    by_cases hr : ∃ rn, i = .rd rn
    · obtain ⟨rn, rfl⟩ := hr
      cases hs
      exact hp
    · rw [exec_write (isCommand_of_decodeBus hd) (by simpa using hr)] at hs
      cases hs
      split
      case isFalse => exact hp
      case isTrue =>
        by_cases hw : ∃ w, i = .cmdwr w
        · obtain ⟨w, rfl⟩ := hw
          exact ne_of_eq_of_ne (accept_phase w s) nofun
        · rwa [writeEffect_phase (by simpa using hw)]

/-- Nor does the host's part of a cycle. -/
theorem hostPart_phase_ne_fault {s t : State} (hp : s.phase ≠ .fault) (hs : hostPart s = .next t) : t.phase ≠ .fault := by
  unfold hostPart at hs
  split at hs
  case h_1 | h_2 | h_5 =>
    cases hs
    exact hp
  case h_3 b rest _ => exact hostAccess_phase_ne_fault (s := { s with host := rest }) hp hs
  case h_4 =>
    simp only [pollStatus, exec, execRd, andThen] at hs
    split at hs <;> cases hs <;> exact hp

theorem resetEdge_phase (b : Option BusWord) (s : State) : (resetEdge b s).phase = .idle := by
  cases b with
  | none => rfl
  | some w => exact ite_phase rfl rfl

/-- Settles O49: reset ends in IDLE, the host's part enters no FAULT, and the sequencer's part finds the invariants as the host's left
them. -/
theorem faultIsUnreachable : Obligations.FaultIsUnreachable := by
  intro s t h hp hs
  by_cases hr : ∃ b rest, s.host = .reset b :: rest
  · obtain ⟨b, rest, hhost⟩ := hr
    rw [step_reset hhost] at hs
    cases hs
    exact ne_of_eq_of_ne (resetEdge_phase b _) nofun
  · rw [step_of_not_reset (by simpa using hr)] at hs
    obtain ⟨u, hu, hseq⟩ := andThen_eq_next hs
    split at hseq
    case isTrue hb => exact sequencerPart_phase_ne_fault (stateInv_hostPart h hu) (hostPart_busy hb hu) hseq
    case isFalse =>
      cases hseq
      exact hostPart_phase_ne_fault hp hu

/-! ## The word counts (R151) -/

/-- ELEN and WCNT are a row of TRIPLES. -/
def HoldsWordRow (s : State) : Prop :=
  (s.elen.toNat, s.wcnt.toNat) ∈ [(16, 12), (20, 15), (24, 18), (28, 21), (32, 24)]

/-- A row by its entropy length. -/
theorem holdsWordRow_of_elen {s : State} (he : s.elen.toNat ∈ [16, 20, 24, 28, 32])
    (hw : s.wcnt = BitVec.ofNat 8 (3 * s.elen.toNat / 4)) : HoldsWordRow s := by
  rw [HoldsWordRow, hw]
  generalize s.elen.toNat = n at he
  revert n
  decide

/-- A row by its word count. -/
theorem holdsWordRow_of_wcnt {s : State} (hw : s.wcnt.toNat ∈ [12, 15, 18, 21, 24])
    (he : s.elen = BitVec.ofNat 8 (4 * s.wcnt.toNat / 3)) : HoldsWordRow s := by
  rw [HoldsWordRow, he]
  generalize s.wcnt.toNat = m at hw
  revert m
  decide

theorem holdsWordRow_encodeHeld {s : State} (h : (encodeHeld s).err = 0) : HoldsWordRow (encodeHeld s) := by
  cases he : s.evalid with
  | false =>
    rw [encodeHeld_of_no_entropy he] at h
    exact absurd h (failWith_err_ne_zero _ _)
  | true =>
    cases hc : countCheck s with
    | false =>
      rw [encodeHeld_of_count_mismatch he hc] at h
      exact absurd h (by simp [errCode])
    | true =>
      obtain ⟨hl, hbits⟩ := legal_of_countCheck hc
      rw [encodeHeld_of_count_ok he hc]
      exact holdsWordRow_of_elen hl (by rw [finish_wcnt, hbits, Nat.mul_div_cancel_left _ (by decide), finish_elen])

theorem holdsWordRow_strip {u : Unpacked} {k : Nat × Nat} {s : State} (hu : unpackHeld s = some u) (h : (strip u k s).err = 0) :
    HoldsWordRow (strip u k s) := by
  obtain ⟨hw, hlen, -, -⟩ := unpackHeld_sizes hu
  by_cases hm : s.strict = true ∧ k.2 ≠ u.x
  · rw [strip_of_mismatch hm] at h
    exact absurd h (failWith_err_ne_zero _ _)
  · rw [strip_of_accepted hm]
    exact holdsWordRow_of_wcnt hw (congrArg (BitVec.ofNat 8) hlen)

theorem holdsWordRow_decodeHeld {sha : List Byte → Digest} {s : State} (h : (decodeHeld sha s).err = 0) :
    HoldsWordRow (decodeHeld sha s) := by
  cases hk : s.unkseen with
  | true =>
    rw [decodeHeld_of_unknown hk] at h
    exact absurd h (failWith_err_ne_zero _ _)
  | false =>
    cases hu : unpackHeld s with
    | none =>
      rw [decodeHeld_of_bad_count hk hu] at h
      exact absurd h (failWith_err_ne_zero _ _)
    | some u =>
      rw [decodeHeld_of_unpacked hk hu] at h ⊢
      exact holdsWordRow_strip hu h

/-- Settles O51: a failed ENCODE or DECODE writes a code to ERR; one that succeeds has met the table by the count check or by the word
count. -/
theorem wordCountsMatchTheEntropyLength : Obligations.WordCountsMatchTheEntropyLength := by
  intro s t i hb hi hs herr
  have hcommand : isCommand i = true := by rcases hi with rfl | rfl <;> rfl
  rw [exec_busy hcommand hb] at hs
  cases hs
  rcases hi with rfl | rfl
  · exact holdsWordRow_encodeHeld herr
  · exact holdsWordRow_decodeHeld herr

/-! ## Stripping what was packed (R150) -/

/-- A legal entropy length has a legal word count (R84). -/
theorem wordCount_legal {n : Nat} (hn : n ∈ [16, 20, 24, 28, 32]) : 3 * n / 4 ∈ [12, 15, 18, 21, 24] := by
  revert n
  decide

section
variable (sha : List Byte → Digest) {e : List Byte}

/-- An entropy of legal length is packed into a whole number of indices. -/
theorem length_packed (he : e.length ∈ [16, 20, 24, 28, 32]) (c : Nat) :
    (packed e (e.length / 4) c).length = 11 * (3 * e.length / 4) := by
  simp only [packed, List.length_append, length_bitsOf, length_binFree]
  simp only [List.mem_cons, List.not_mem_nil, or_false] at he
  omega

theorem length_indices (he : e.length ∈ [16, 20, 24, 28, 32]) : (indices sha e).length = 3 * e.length / 4 := by
  rw [indices, length_groups, checksum_fst, length_packed he, Nat.mul_div_cancel_left _ (by decide)]

/-- The bits of the indices are the bits packed. -/
theorem indexBits_indices (he : e.length ∈ [16, 20, 24, 28, 32]) :
    indexBits (indices sha e) = packed e (e.length / 4) (checksum sha e).2 := indexBits_groups _ _ (length_packed he _)

/-- The bytes cut from the packed bits are the entropy. -/
theorem map_slices_packed (cs c : Nat) :
    ((List.range e.length).map fun j => BitVec.ofNat 8 (uint (slice (packed e cs c) (8 * j) 8))) = e := by
  refine List.ext_getElem (by simp) fun j _ hj => ?_
  rw [List.getElem_map, List.getElem_range, packed, slice_append_left (by rw [length_bitsOf]; omega), uint_slice_bitsOf e j hj,
    BitVec.ofNat_toNat, BitVec.setWidth_eq]

/-- The bits after the entropy are the checksum. -/
theorem uint_slice_packed {cs c : Nat} (hc : c < 2 ^ cs) : uint (slice (packed e cs c) (8 * e.length) cs) = c := by
  have hall := slice_all (bin cs c)
  rw [length_bin] at hall
  rw [packed, binFree_of_lt hc, ← length_bitsOf, slice_append_right, hall, uint_bin hc]

theorem unpack_indices (he : e.length ∈ [16, 20, 24, 28, 32]) :
    unpack (indices sha e) = some ⟨e, e.length / 4, (checksum sha e).2⟩ := by
  have hm := he
  simp only [List.mem_cons, List.not_mem_nil, or_false] at hm
  have hcs : 3 * e.length / 4 / 3 = e.length / 4 := by omega
  have hbytes : (11 * (3 * e.length / 4) - e.length / 4) / 8 = e.length := by omega
  have hx := uint_slice_packed (checksum_lt sha e (le_32_of_legal he)) (e := e)
  simp only [unpack, length_indices sha he, tripleOfMs_of_mem (wordCount_legal he), hcs, hbytes, indexBits_indices sha he,
    map_slices_packed, hx]

end

/-- Settles O52: the bits of the indices are the packed bits, and the cuts of the strip fall where the pieces were joined. -/
theorem unpackInvertsIndices : Obligations.UnpackInvertsIndices := fun sha _ he => ⟨length_indices sha he, unpack_indices sha he⟩

/-! ## DECODE of a held encoding (R150, 10_state.md R53) -/

/-- Under the invariants the entropy that ENT holds fills it again to what it is. -/
theorem StateInv.fill_entropyOf {s : State} (h : StateInv s) (he : s.elen.toNat ≤ 32) : fill 32 (entropyOf s) = s.ent := by
  refine Vector.ext fun j hj => ?_
  have hget (v : Vector Byte 32) : v[j] = v.getD j 0 := by simp [Vector.getD, hj]
  rw [hget, hget, getD_fill 32 _ j hj]
  by_cases hlt : j < s.elen.toNat
  · rw [List.getD_eq_getElem _ 0 (by rwa [length_entropyOf])]
    simp [entropyOf, hj]
  · rw [h.entTail j (by omega), List.getD_eq_default _ 0 (by rw [length_entropyOf]; omega)]

/-- Under the invariants a held encoding strips to the entropy held and its checksum. -/
theorem StateInv.unpackHeld_of_ivalid {s : State} (h : StateInv s) (hi : s.ivalid = true) :
    unpackHeld s = some ⟨entropyOf s, s.elen.toNat / 4, (checksum Config.sha256 (entropyOf s)).2⟩ := by
  obtain ⟨he, -, hw, hind⟩ := h.indicesValid hi
  have hl := (h.entropyValid he).1
  rw [tripleOfElen_isSome_iff, ← length_entropyOf] at hl
  have hword : s.wcnt.toNat ∈ [12, 15, 18, 21, 24] := by
    rw [hw, length_indices _ hl]
    exact wordCount_legal hl
  simp only [unpackHeld, tripleOfMs_of_mem hword, hind, unpack_indices _ hl, length_entropyOf]

/-- In IDLE a command write is its acceptance (R116). -/
theorem exec_cmdwr_idle (w : CmdWord) {s : State} (hp : s.phase = .idle) : exec (.cmdwr w) s = .next (accept w s) :=
  (exec_write rfl (by simp) s).trans (hostWrite_idle _ hp)

/-- Settles O53: acceptance leaves the indices, which strip to the entropy that ENT still holds; its checksum is the one embedded, so no
mode raises an error. -/
theorem decodeAfterEncodeRecoversTheEntropy : Obligations.DecodeAfterEncodeRecoversTheEntropy := by
  rintro s t u ⟨hp, h⟩ hi ht hu
  obtain ⟨he, hk, -, -⟩ := h.indicesValid hi
  obtain ⟨hl, hcs, hc⟩ := h.entropyValid he
  have hfit := le_32_of_legal ((tripleOfElen_isSome_iff _).mp hl)
  obtain ⟨k, hacc⟩ := accept_ok (w := 0x0004) (i := .decode) rfl s
  rw [exec_cmdwr_idle _ hp, hacc] at ht
  cases ht
  rw [exec_busy rfl rfl] at hu
  cases hu
  have hdec := decodeHeld_of_unpacked (sha := Config.sha256) (s := { acceptInvalidate .decode
    { s with opc := 0x0004, phase := .busy, err := 0, errinfo := 0, done := false, fresh := s.fresh + 1 } with wait := k })
    hk (h.unpackHeld_of_ivalid hi)
  rw [completionEffect, hdec, strip_of_accepted (by simp)]
  refine ⟨h.fill_entropyOf hfit, ?_, ?_, ?_, rfl, rfl, beq_self_eq_true _, rfl⟩
  · rw [finish_elen, setChecksum_elen, length_entropyOf, BitVec.ofNat_toNat, BitVec.setWidth_eq]
  · rw [finish_csum, setChecksum_csum, ← hc, BitVec.ofNat_toNat, BitVec.setWidth_eq]
  · rw [finish_cslen, setChecksum_cslen, checksum_fst, length_entropyOf, ← hcs, BitVec.ofNat_toNat, BitVec.setWidth_eq]

/-! ## Permissive DECODE and then VERIFY (R149) -/

/-- DECODE's input checks do not look at the mode: in both modes it fails with one error, or strips one result. -/
theorem decodeHeld_either_mode (sha : List Byte → Digest) (s : State) :
    (∃ e, ∀ b, decodeHeld sha { s with strict := b } = failWith e { s with strict := b })
    ∨ ∃ u, ∀ b, decodeHeld sha { s with strict := b } = strip u (checksum sha u.ent) { s with strict := b } := by
  by_cases hk : s.unkseen = true
  · exact .inl ⟨.unknownWord s.unkpos s.lang, fun b => decodeHeld_of_unknown (s := { s with strict := b }) hk⟩
  · rw [Bool.not_eq_true] at hk
    cases hu : unpackHeld s with
    | none => exact .inl ⟨.invalidSentenceLength s.wcnt, fun b => decodeHeld_of_bad_count (s := { s with strict := b }) hk hu⟩
    | some u => exact .inr ⟨u, fun b => decodeHeld_of_unpacked (s := { s with strict := b }) hk hu⟩

theorem verifyHeld_err (s : State) : (verifyHeld s).err = if s.dvalid then if s.csok then s.err else 4 else 7 := by
  cases hd : s.dvalid with
  | false => rw [verifyHeld_of_no_strip hd]; rfl
  | true =>
    cases hc : s.csok with
    | false => rw [verifyHeld_of_mismatch hd hc]; rfl
    | true => rw [verifyHeld_of_match hd hc]; rfl

/-- VERIFY, accepted and completed: ERR says whether there is a strip result and whether its checksums agree. -/
theorem verify_err {p q u : State} (hp : p.phase = .idle) (hq : exec (.cmdwr 0x0005) p = .next q)
    (hu : exec .verify q = .next u) : u.err = if p.dvalid then if p.csok then 0 else 4 else 7 := by
  obtain ⟨k, hacc⟩ := accept_ok (w := 0x0005) (i := .verify) rfl p
  rw [exec_cmdwr_idle _ hp, hacc] at hq
  cases hq
  rw [exec_busy rfl rfl] at hu
  cases hu
  exact verifyHeld_err _

/-- Settles O54: an input error is the same in both modes and leaves no strip result; a strip result that agrees is an error in neither run,
and one that does not is ChecksumMismatch in both. -/
theorem verifyAgreesWithStrictDecode : Obligations.VerifyAgreesWithStrictDecode := by
  intro s p q u v hb herr hd hp hq hu hv
  have hexec (b : Bool) : exec .decode { s with strict := b } = .next (decodeHeld Config.sha256 { s with strict := b }) :=
    exec_busy rfl hb
  rw [hexec] at hp hv
  cases hp
  cases hv
  rw [verify_err (decodeHeld_phase _ _) hq hu]
  obtain ⟨e, he⟩ | ⟨x, hx⟩ := decodeHeld_either_mode Config.sha256 s
  · have hne (b : Bool) : (failWith e { s with strict := b }).err ≠ 0 := failWith_err_ne_zero _ _
    rw [he false, he true, failWith_dvalid, hd, if_neg Bool.false_ne_true]
    exact ⟨iff_of_false (by decide) (hne true), fun h0 => absurd h0 (hne false)⟩
  · rw [hx false, hx true]
    by_cases heq : (checksum Config.sha256 x.ent).2 = x.x
    · rw [strip_of_accepted (by simp), strip_of_accepted (by simp [heq])]
      simp [heq, herr]
    · rw [strip_of_accepted (by simp), strip_of_mismatch ⟨rfl, heq⟩]
      simp [heq, errCode]

/-! ## Sentences (46_driver_contract.md R201, R206, R208) -/

/-- Looking a word of a list up gives its index (R201). -/
theorem wordIndex_word {word : Wordlists} (hw : WordlistsOk word) (g : Language) (i : Idx) : wordIndex word g (word g i) = some i := by
  have hmem : i ∈ (List.range 2048).map (BitVec.ofNat 11) :=
    List.mem_map.mpr ⟨i.toNat, List.mem_range.mpr i.isLt, by rw [BitVec.ofNat_toNat, BitVec.setWidth_eq]⟩
  cases hfind : wordIndex word g (word g i) with
  | none => exact absurd (decide_eq_true rfl) (List.find?_eq_none.mp hfind i hmem)
  | some j =>
    have hfound := List.find?_some hfind
    rw [decide_eq_true_eq] at hfound
    rw [hw.unique g j i hfound]

/-- Settles O56: splitting undoes joining, looking up undoes the wordlist, and the indices strip to the entropy. -/
theorem sentenceRoundTrip : Obligations.SentenceRoundTrip := by
  intro word isSpace split g sha e hw hsplit hclean he
  refine ⟨indices sha e, ?_, unpack_indices sha he⟩
  have hwords : ∀ w ∈ (indices sha e).map (word g), w ≠ [] ∧ ∀ c ∈ w, isSpace c = false := by
    intro w hmem
    obtain ⟨i, -, rfl⟩ := List.mem_map.mp hmem
    exact hclean i
  rw [hsplit.split_joinWords g _ hwords, List.map_map]
  exact List.map_congr_left fun i _ => by rw [Function.comp_apply, wordIndex_word hw]

end Sys2Proof.Machine
end

section
/-! PROOFS. The statement about SEED (43_seed_command.md R160). -/

namespace Sys2Proof.Machine

/-- The salt as its bytes stand: the prefix, then the leading part of PASS (R160). -/
theorem saltOf_eq_take {s : State} (h : s.plen.toNat ≤ passMax s) : saltOf s = saltPrefix ++ s.pass.take s.plen.toNat := by
  rw [saltOf, passphraseOf_eq_take s h]

/-- PLEN is the whole of the detail, zero-extended (R232). -/
theorem errLayout_passphraseOverflow (plen : BitVec 9) : errLayout (.passphraseOverflow plen) = plen.setWidth 16 :=
  (BitVec.setWidth_eq_append (by decide)).symm

/-- SEED asks nothing when one of its checks fails (R160). -/
theorem oracleRequests_seed_of_refused {s : State} (h : ¬ (s.evalid = true ∧ ¬ s.povf = true)) : oracleRequests .seed s = [] :=
  if_neg h

/-- SEED asks the KDF once when both checks pass (R160, R184). -/
theorem oracleRequests_seed_of_ready {s : State} (he : s.evalid = true) (hp : s.povf = false) :
    oracleRequests .seed s = [.kdf (entropyOf s) (saltOf s) 2048 64] := if_pos ⟨he, Bool.eq_false_iff.mp hp⟩

/-- Settles O31: the entropy is looked for first, then the overflow; with neither refusal the bytes read are the leading parts of ENT and
PASS. -/
theorem seedDerivesOrRefuses : Obligations.SeedDerivesOrRefuses := by
  intro s hb
  have hexec : exec .seed s = .next (deriveSeed Config.pbkdf2 s) := exec_busy rfl hb
  refine ⟨fun he => ?no_entropy, fun he hp => ?overflow, fun he hp hn hl => ?ready⟩
  case no_entropy =>
    rw [hexec, deriveSeed_of_no_entropy he]
    exact ⟨rfl, oracleRequests_seed_of_refused (by simp [he])⟩
  case overflow =>
    rw [hexec, deriveSeed_of_overflow he hp, failWith, errLayout_passphraseOverflow]
    exact ⟨rfl, oracleRequests_seed_of_refused (by simp [hp])⟩
  case ready =>
    rw [hexec, deriveSeed_of_ready he hp, oracleRequests_seed_of_ready he hp, entropyOf_eq_take s hn, saltOf_eq_take hl]
    exact ⟨rfl, rfl⟩

end Sys2Proof.Machine
end

section
/-! PROOFS. The statements about NOP, CLR, an illegal command word and the requests on the oracle ports
(44_housekeeping_commands.md R170 to R174). -/

namespace Sys2Proof.Machine

/-! ## CLR (R171) -/

/-- A field cleared to `z` twice is cleared when either clearing applies. -/
theorem ite_ite_eq_ite_or {α : Type} {p q : Prop} [Decidable p] [Decidable q] (z x : α) :
    (if q then z else if p then z else x) = if p ∨ q then z else x := by rw [← ite_or, if_congr or_comm rfl rfl]

/-- Group E under its mask bit: ENT and ELEN, and all that InvalidateE invalidates. -/
theorem ite_clearE (e : Bool) (s : State) :
    (if e then clearE s else s) =
      { s with
        ent := if e then Vector.replicate 32 0 else s.ent, elen := if e then 0 else s.elen
        evalid := if e then false else s.evalid, csum := if e then 0 else s.csum, cslen := if e then 0 else s.cslen
        ivalid := if e then false else s.ivalid, dvalid := if e then false else s.dvalid
        csok := if e then false else s.csok, ecs := if e then 0 else s.ecs
        svalid := if e then false else s.svalid, seed := if e then Vector.replicate 64 0 else s.seed } := by
  cases e <;> rfl

/-- Group I under its mask bit: IDX, WCNT and the unknown-word record, and the strip result. -/
theorem ite_clearI (i : Bool) (s : State) :
    (if i then clearI s else s) =
      { s with
        idx := if i then Vector.replicate 24 0 else s.idx, wcnt := if i then 0 else s.wcnt
        unkseen := if i then false else s.unkseen, unkpos := if i then 0 else s.unkpos
        ivalid := if i then false else s.ivalid, dvalid := if i then false else s.dvalid
        csok := if i then false else s.csok, ecs := if i then 0 else s.ecs } := by
  cases i <;> rfl

/-- Group P under its mask bit: PASS, PLEN and POVF, and the seed. -/
theorem ite_clearP (p : Bool) (s : State) :
    (if p then clearP s else s) =
      { s with
        pass := if p then List.replicate s.pass.length 0 else s.pass, plen := if p then 0 else s.plen
        povf := if p then false else s.povf
        svalid := if p then false else s.svalid, seed := if p then Vector.replicate 64 0 else s.seed } := by
  cases p <;> rfl

/-- Group S under its mask bit: the seed. -/
theorem ite_invalidateS (d : Bool) (s : State) :
    (if d then invalidateS s else s) =
      { s with
        svalid := if d then false else s.svalid, seed := if d then Vector.replicate 64 0 else s.seed } := by
  cases d <;> rfl

/-- Settles O32: each group's clearing is a choice field by field, and a field of two or three groups is cleared when one of them is. -/
theorem clrClearsTheGroups : Obligations.ClrClearsTheGroups := by
  intro s m hb
  rw [exec_busy rfl hb, completionEffect]
  simp only [finish, clearGroups, ite_clearE, ite_clearI, ite_clearP, ite_invalidateS, ite_ite_eq_ite_or, or_assoc]

/-! ## The requests of each instruction (R174) -/

/-- An instruction that asks once when its check passes, and nothing otherwise, asks exactly when the check passes. -/
theorem ne_nil_iff_of_asks {rs : List OracleRequest} {check : Prop} (h : (check ∧ ∃ r, rs = [r]) ∨ (¬ check ∧ rs = [])) :
    rs ≠ [] ↔ check := by
  obtain ⟨hc, r, rfl⟩ | ⟨hc, rfl⟩ := h
  · exact iff_of_true (List.cons_ne_nil r []) hc
  · exact iff_of_false (fun hne => hne rfl) hc

/-- LOADE asks SHA for the entropy held, when its length is legal. -/
theorem oracleRequests_loade_cases (s : State) :
    (s.elen.toNat ∈ [16, 20, 24, 28, 32] ∧ oracleRequests .loade s = [.sha (entropyOf s)])
    ∨ (s.elen.toNat ∉ [16, 20, 24, 28, 32] ∧ oracleRequests .loade s = []) := by
  rw [← tripleOfElen_isSome_iff]
  by_cases hl : (tripleOfElen s.elen.toNat).isSome = true
  · exact .inl ⟨hl, if_pos hl⟩
  · exact .inr ⟨hl, if_neg hl⟩

/-- DECODE asks SHA for the entropy unpacked, when both input checks pass. -/
theorem oracleRequests_decode_cases (s : State) :
    ((s.unkseen = false ∧ s.wcnt.toNat ∈ [12, 15, 18, 21, 24]) ∧
      ∃ u, unpackHeld s = some u ∧ oracleRequests .decode s = [.sha u.ent])
    ∨ (¬ (s.unkseen = false ∧ s.wcnt.toNat ∈ [12, 15, 18, 21, 24]) ∧ oracleRequests .decode s = []) := by
  rw [← unpackHeld_isSome_iff]
  cases hk : s.unkseen with
  | true => exact .inr ⟨by simp, by simp [oracleRequests, hk]⟩
  | false =>
    cases hu : unpackHeld s with
    | none => exact .inr ⟨by simp, by simp [oracleRequests, hk, hu]⟩
    | some u => exact .inl ⟨⟨rfl, rfl⟩, u, rfl, by simp [oracleRequests, hk, hu]⟩

/-- SEED asks the KDF, when an entropy is valid and the passphrase has not overflowed. -/
theorem oracleRequests_seed_cases (s : State) :
    ((s.evalid = true ∧ s.povf = false) ∧ oracleRequests .seed s = [.kdf (entropyOf s) (saltOf s) 2048 64])
    ∨ (¬ (s.evalid = true ∧ s.povf = false) ∧ oracleRequests .seed s = []) := by
  by_cases h : s.evalid = true ∧ s.povf = false
  · exact .inl ⟨h, oracleRequests_seed_of_ready h.1 h.2⟩
  · exact .inr ⟨h, oracleRequests_seed_of_refused (by simpa using h)⟩

/-- The commands that use no oracle, and the host transactions, ask nothing. -/
theorem oracleRequests_eq_nil {i : Instr}
    (hi : i = .nop ∨ i = .encode ∨ i = .verify ∨ (∃ m, i = .clr m) ∨ isCommand i = false) (s : State) :
    oracleRequests i s = [] := by
  obtain rfl | rfl | rfl | ⟨m, rfl⟩ | hi := hi
  case inr.inr.inr.inr => cases i <;> cases hi <;> rfl
  all_goals rfl

/-- The salt is the prefix's eight bytes and the passphrase's (R161). -/
theorem length_saltOf (s : State) : (saltOf s).length = 8 + s.plen.toNat := by
  rw [saltOf, List.length_append, passphraseOf, List.length_map, List.length_range]
  rfl

/-- Settles O36: each instruction's requests by the checks it makes; the sizes are those of what is asked. -/
theorem oracleTrafficOfEachCommand : Obligations.OracleTrafficOfEachCommand := by
  intro s
  refine ⟨fun i hi => oracleRequests_eq_nil hi s, ?loade, ?decode, ?shaShape, ?rande, ?seed, ?kdfShape, ?kdfSizes⟩
  case loade => exact ne_nil_iff_of_asks ((oracleRequests_loade_cases s).imp_left fun ⟨hl, hr⟩ => ⟨hl, _, hr⟩)
  case decode => exact ne_nil_iff_of_asks ((oracleRequests_decode_cases s).imp_left fun ⟨hc, u, _, hr⟩ => ⟨hc, _, hr⟩)
  case shaShape =>
    rintro i (rfl | rfl)
    · obtain ⟨hl, hr⟩ | ⟨-, hr⟩ := oracleRequests_loade_cases s
      · exact .inr ⟨entropyOf s, by rwa [length_entropyOf], hr⟩
      · exact .inl hr
    · obtain ⟨-, u, hu, hr⟩ | ⟨-, hr⟩ := oracleRequests_decode_cases s
      · exact .inr ⟨u.ent, length_ent_of_unpackHeld hu, hr⟩
      · exact .inl hr
  case rande => exact ⟨(Config.rngDraw s.fresh).toList, Vector.length_toList, rfl⟩
  case seed => exact ne_nil_iff_of_asks ((oracleRequests_seed_cases s).imp_left fun ⟨hc, hr⟩ => ⟨hc, _, hr⟩)
  case kdfShape =>
    obtain ⟨-, hr⟩ | ⟨-, hr⟩ := oracleRequests_seed_cases s
    · exact .inr ⟨entropyOf s, saltOf s, hr⟩
    · exact .inl hr
  case kdfSizes =>
    intro h p salt c n hask
    obtain ⟨⟨he, -⟩, hr⟩ | ⟨-, hr⟩ := oracleRequests_seed_cases s
    · rw [hr] at hask
      cases hask
      obtain ⟨hl, -, -⟩ := h.entropyValid he
      rw [length_entropyOf, length_saltOf, ← tripleOfElen_isSome_iff]
      exact ⟨hl, rfl, Nat.add_le_add_left h.plenBound 8⟩
    · rw [hr] at hask
      cases hask

/-! ## NOP and an illegal word, accepted and completed (R170, R173) -/

/-- Settles O21: NOP invalidates nothing and asks no oracle, so its acceptance is the latch alone; its completion is the normal one. -/
theorem nopRuns : Obligations.NopRuns := by
  refine fun s => ⟨fun hp => ⟨Config.tBusy s.fresh, ?_⟩, exec_busy rfl⟩
  rw [exec_cmdwr_idle _ hp, accept_of_ok (i := .nop) rfl]
  rfl

/-- Settles O33: the decoder rejects the word, so acceptance is the latch alone and completion the error. -/
theorem illegalWordCompletesWithAnError : Obligations.IllegalWordCompletesWithAnError := by
  refine fun s => ⟨fun w hp hw => ⟨Config.tBusy s.fresh, ?_⟩, fun hb hw => ?_⟩
  · rw [exec_cmdwr_idle _ hp, accept_error (decodeCmd_of_not_legal hw)]
  · exact completeLatched_error (decodeCmd_of_not_legal hw) hb

end Sys2Proof.Machine
end

section
/-! PROOFS. The driver's word lookup and its report of an unknown word (46_driver_contract.md R201, R207). -/

namespace Sys2Proof.Machine

/-! ## Looking words up (R200, R201) -/

/-- A lookup tries every index, so only a string that is no word of the list is absent (R201). -/
theorem wordIndex_eq_none_iff (word : Wordlists) (g : Language) (w : WordText) : wordIndex word g w = none ↔ ∀ i, word g i ≠ w := by
  have hmem (i : Idx) : i ∈ (List.range 2048).map (BitVec.ofNat 11) :=
    List.mem_map.mpr ⟨i.toNat, List.mem_range.mpr i.isLt, by rw [BitVec.ofNat_toNat, BitVec.setWidth_eq]⟩
  simp only [wordIndex, List.find?_eq_none, decide_eq_true_eq]
  exact ⟨fun h i => h i (hmem i), fun h i _ => h i⟩

/-- Settles O55, from the lookup of a word and the lookup that finds none. -/
theorem wordLookupInvertsTheList : Obligations.WordLookupInvertsTheList :=
  fun word g hw => ⟨wordIndex_word hw g, wordIndex_eq_none_iff word g⟩

/-! ## The report of an unknown word (R207, 60_exceptions.md R232) -/

/-- UnknownWord's detail holds the position in its low byte and the language in the four bits above. -/
theorem errLayout_unknownWord_fields (pos : Byte) (lang : BitVec 4) :
    (errLayout (.unknownWord pos lang)).extractLsb' 0 8 = pos ∧ (errLayout (.unknownWord pos lang)).extractLsb' 8 4 = lang := by
  constructor
  all_goals
    refine BitVec.eq_of_getLsbD_eq fun i hi => ?_
    simp only [errLayout, BitVec.getLsbD_extractLsb', BitVec.getLsbD_append]
    simp [hi]

/-- With ERR 2 in IDLE the call's result is UnknownWord, with the word and the language ERRINFO names. -/
theorem callResult_of_unknownWord {t : State} (hp : t.phase = .idle) (herr : t.err = 2) (words : List WordText) :
    callResult words t
      = .unknownWord words[(t.errinfo.extractLsb' 0 8).toNat]? (languageOfCode (t.errinfo.extractLsb' 8 4)) := by
  have hcode : regRead t 0x004 = t.err.setWidth 16 := regRead_idle _ hp
  have hinfo : regRead t 0x005 = t.errinfo := regRead_idle _ hp
  rw [callResult, hcode, herr, offendingWord, offendingLanguage, hinfo]
  rfl

/-- Settles O57: DECODE fails with UnknownWord, whose detail names the position and the language selected. -/
theorem unknownWordNamesTheWordAndLanguage : Obligations.UnknownWordNamesTheWordAndLanguage := by
  intro s t g words hb hk hl ht
  have hexec : exec .decode s = .next (decodeHeld Config.sha256 s) := exec_busy rfl hb
  rw [hexec, decodeHeld_of_unknown hk] at ht
  cases ht
  obtain ⟨hpos, hlang⟩ := errLayout_unknownWord_fields s.unkpos s.lang
  rw [callResult_of_unknownWord rfl rfl, failWith_errinfo, hpos, hlang, hl, languageOfCode_languageCode]

end Sys2Proof.Machine
end

section
/-! PROOFS. What a step does with the host's own cycles and with a read of STATUS, which steps enter BUSY, and the duty to wait for a
command (46_driver_contract.md R211, 70_reset_and_hazards.md R258). -/

namespace Sys2Proof.Machine

/-! ## What one access can do -/

/-- An access runs RD, has the effect of a write in IDLE, or does nothing (R71, R72, R74). -/
theorem hostAccess_cases {b : BusWord} {s t : State} (h : hostAccess b s = .next t) :
    t = s ∨ (∃ rn, decodeBus b = .ok (.rd rn) ∧ t = { s with rdata := regRead s rn })
      ∨ ∃ i, decodeBus b = .ok i ∧ s.phase = .idle ∧ t = writeEffect i s := by
  unfold hostAccess at h
  split at h
  case h_2 =>
    cases h
    exact .inl rfl
  case h_1 i hd =>
    by_cases hr : ∃ rn, i = .rd rn
    · obtain ⟨rn, rfl⟩ := hr
      cases h
      exact .inr (.inl ⟨rn, hd, rfl⟩)
    · rw [exec_write (isCommand_of_decodeBus hd) (by simpa using hr)] at h
      cases h
      split
      case isTrue hp => exact .inr (.inr ⟨i, hd, hp, rfl⟩)
      case isFalse => exact .inl rfl

theorem accept_host (w : CmdWord) (s : State) : (accept w s).host = s.host := by
  cases hd : decodeCmd w with
  | error r => rw [accept_error hd]
  | ok i =>
    obtain ⟨k, hk⟩ := accept_ok hd s
    rw [hk, acceptInvalidate_latch]
    cases i <;> rfl

/-- No host write reaches the host's own list. -/
theorem writeEffect_host (i : Instr) (s : State) : (writeEffect i s).host = s.host := by
  cases i
  case cmdwr w => exact accept_host w s
  case ack | wrlang => exact (apply_ite State.host _ _ _).trans (ite_self _)
  case ppush b =>
    by_cases hr : s.plen.toNat < passMax s
    · rw [writeEffect, pushPass_of_room hr]
      rfl
    · rw [writeEffect, pushPass_of_full hr]
      rfl
  all_goals rfl

theorem hostAccess_host {b : BusWord} {s t : State} (h : hostAccess b s = .next t) : t.host = s.host := by
  obtain rfl | ⟨rn, -, rfl⟩ | ⟨i, -, -, rfl⟩ := hostAccess_cases h
  · rfl
  · rfl
  · exact writeEffect_host i s

/-- A write that names the command write is a write to CMD (30_encoding.md R95). -/
theorem writesTo_cmd_of_decodeBus {b : BusWord} {w : CmdWord} (h : decodeBus b = .ok (.cmdwr w)) :
    writesTo 0x002 (.access b) = true := by
  unfold decodeBus decodeWrite at h
  split_ifs at h with hwe hctrl hcmd
  all_goals cases h
  simp [writesTo, hwe, hcmd]

/-- The only access that changes the phase is a write to CMD. -/
theorem hostAccess_phase {b : BusWord} {s t : State} (h : hostAccess b s = .next t) :
    t.phase = s.phase ∨ writesTo 0x002 (.access b) = true := by
  obtain rfl | ⟨rn, -, rfl⟩ | ⟨i, hi, -, rfl⟩ := hostAccess_cases h
  · exact .inl rfl
  · exact .inl rfl
  · by_cases hw : ∃ w, i = .cmdwr w
    · obtain ⟨w, rfl⟩ := hw
      exact .inr (writesTo_cmd_of_decodeBus hi)
    · exact .inl (writeEffect_phase (by simpa using hw) s)

/-- A read access returns the register it names. -/
theorem hostAccess_rdata {b : BusWord} {s t : State} (hb : busWe b = false) (h : hostAccess b s = .next t) :
    t.rdata = regRead s (busRn b) := by
  rw [← busWord_fields b, hb, hostAccess_read] at h
  cases h
  rfl

/-! ## What one step can do -/

/-- A step whose cycle is no reset is the host's part, and what follows it in BUSY leaves the host's two fields. -/
theorem step_hostPart {s t : State} (hr : ∀ b rest, s.host ≠ .reset b :: rest) (h : step s = .next t) :
    ∃ u, hostPart s = .next u ∧ t.host = u.host ∧ t.rdata = u.rdata ∧ (s.phase ≠ .busy → t = u) := by
  rw [step_of_not_reset hr] at h
  obtain ⟨u, hu, hseq⟩ := andThen_eq_next h
  split at hseq
  case isTrue hb =>
    obtain ⟨hhost, hrdata⟩ := sequencerPart_host hseq
    exact ⟨u, hu, hhost, hrdata, fun hp => absurd hb hp⟩
  case isFalse =>
    cases hseq
    exact ⟨_, hu, rfl, rfl, fun _ => rfl⟩

theorem resetEdge_host (b : Option BusWord) (s : State) : (resetEdge b s).host = s.host := by
  cases b with
  | none => rfl
  | some w => exact (apply_ite State.host _ _ _).trans (ite_self _)

/-- The host's part takes the cycle presented off the host's list; a `wait` stays while the block is in BUSY (R99). -/
theorem hostPart_host {s t : State} (h : hostPart s = .next t) :
    t.host = if presented s = .wait ∧ s.phase = .busy then s.host else s.host.tail := by
  match hh : s.host with
  | [] | .quiet :: _ | .reset _ :: _ =>
    rw [hostPart, hh] at h
    cases h
    simp [presented, hh]
  | .access b :: rest =>
    rw [hostPart, hh] at h
    simpa [presented, hh] using hostAccess_host h
  | .wait :: rest =>
    rw [hostPart_wait hh] at h
    cases h
    simp [presented, hh]

/-- So does a step. -/
theorem step_host {s t : State} (h : step s = .next t) :
    t.host = if presented s = .wait ∧ s.phase = .busy then s.host else s.host.tail := by
  by_cases hr : ∃ b rest, s.host = .reset b :: rest
  · obtain ⟨b, rest, hh⟩ := hr
    rw [step_reset hh] at h
    cases h
    simp [resetEdge_host, presented, hh]
  · obtain ⟨u, hu, hhost, -, -⟩ := step_hostPart (by simpa using hr) h
    rw [hhost, hostPart_host hu]

/-- A read in the host's part returns the register, and a round of `wait` returns STATUS. -/
theorem hostPart_rdata {s t : State} {rn : RegNum} (hrd : readsFrom rn (presented s) = true) (h : hostPart s = .next t) :
    t.rdata = regRead s rn := by
  match hh : s.host with
  | [] | .quiet :: _ | .reset _ :: _ => simp [presented, hh, readsFrom] at hrd
  | .access b :: rest =>
    simp only [presented, hh, List.headD_cons, readsFrom, Bool.and_eq_true, Bool.not_eq_true', beq_iff_eq] at hrd
    obtain ⟨hb, rfl⟩ := hrd
    rw [hostPart, hh] at h
    exact hostAccess_rdata (s := { s with host := rest }) hb h
  | .wait :: rest =>
    simp only [presented, hh, List.headD_cons, readsFrom, beq_iff_eq] at hrd
    subst hrd
    rw [hostPart_wait hh] at h
    cases h
    exact (regRead_status s).symm

/-- A step that presents a read returns the register as it stood before the edge (R70). -/
theorem step_rdata {s t : State} {rn : RegNum} (hrd : readsFrom rn (presented s) = true) (h : step s = .next t) :
    t.rdata = regRead s rn := by
  have hr (b : Option BusWord) (rest : List HostCycle) : s.host ≠ .reset b :: rest := fun hh => by
    simp [presented, hh, readsFrom] at hrd
  obtain ⟨u, hu, -, hrdata, -⟩ := step_hostPart hr h
  rw [hrdata, hostPart_rdata hrd hu]

/-- What the host sees in a read of STATUS is whether the block was in BUSY (R40, R75). -/
theorem seesIdle_of_step {s t : State} (h : step s = .next t) :
    seesIdle ⟨presented s, t.rdata⟩ = (readsFrom 0x003 (presented s) && decide (s.phase ≠ .busy)) := by
  cases hrd : readsFrom 0x003 (presented s) with
  | false => rw [seesIdle, hrd, Bool.false_and, Bool.false_and]
  | true => rw [seesIdle, hrd, step_rdata hrd h, regRead_status, statusWord_busy, decide_not]

/-- The host's part changes the phase by a write to CMD alone. -/
theorem hostPart_phase {s t : State} (h : hostPart s = .next t) : t.phase = s.phase ∨ writesTo 0x002 (presented s) = true := by
  match hh : s.host with
  | [] | .quiet :: _ | .reset _ :: _ =>
    rw [hostPart, hh] at h
    cases h
    exact .inl rfl
  | .access b :: rest =>
    rw [hostPart, hh] at h
    simpa [presented, hh] using hostAccess_phase h
  | .wait :: rest =>
    rw [hostPart_wait hh] at h
    cases h
    exact .inl rfl

theorem isReset_presented_iff (s : State) : isReset (presented s) = true ↔ ∃ b rest, s.host = .reset b :: rest := by
  match hh : s.host with
  | [] | .quiet :: _ | .access _ :: _ | .wait :: _ | .reset _ :: _ => simp [presented, hh, isReset]

/-- A block in BUSY after a step was in BUSY before it, or took a command; and the step was no reset. -/
theorem busy_after_step {s t : State} (h : step s = .next t) (hb : t.phase = .busy) :
    isReset (presented s) = false ∧ (s.phase = .busy ∨ writesTo 0x002 (presented s) = true) := by
  have hr : ¬ ∃ b rest, s.host = .reset b :: rest := by
    rintro ⟨b, rest, hh⟩
    rw [step_reset hh] at h
    cases h
    rw [resetEdge_phase] at hb
    cases hb
  refine ⟨Bool.eq_false_iff.mpr (mt (isReset_presented_iff s).mp hr), ?_⟩
  by_cases hp : s.phase = .busy
  · exact .inl hp
  · obtain ⟨u, hu, -, -, heq⟩ := step_hostPart (by simpa using hr) h
    rw [heq hp] at hb
    exact .inr ((hostPart_phase hu).resolve_left fun hsame => hp (hsame ▸ hb))

/-- In BUSY the sequencer's part is a wait or a completion, and either answers. -/
theorem sequencerPart_answers {s : State} (hb : s.phase = .busy) : ∃ t, sequencerPart s = .next t := by
  match hw : s.wait with
  | none => exact ⟨_, sequencerPart_hangs hw⟩
  | some 0 => exact ⟨_, (sequencerPart_due hw).trans (completeLatched_busy hb)⟩
  | some (k + 1) => exact ⟨_, sequencerPart_waits hw⟩

/-- In BUSY a step answers: the reset edge, or the sequencer's part. -/
theorem step_busy_answers {s : State} (hb : s.phase = .busy) : ∃ t, step s = .next t := by
  by_cases hr : ∃ b rest, s.host = .reset b :: rest
  · obtain ⟨b, rest, hh⟩ := hr
    exact ⟨_, step_reset hh⟩
  · obtain ⟨v, ho, heq, -⟩ := step_busy hb (by simpa using hr)
    rw [heq]
    exact sequencerPart_answers hb

/-! ## The duty to wait (R211, R258) -/

/-- Whether a command may be in flight after a cycle, as `writesAfterIdle` follows it: from a write to CMD to a read of STATUS that shows
BUSY = 0, or a reset. -/
def commandHeld (held : Bool) (o : Seen) : Bool :=
  heldAfter (fun o => writesTo 0x002 o.cycle) (fun o => seesIdle o || isReset o.cycle) held o

/-- No cycle is a write and a read. -/
theorem readsFrom_of_writesTo {rn rn' : RegNum} {c : HostCycle} (h : writesTo rn c = true) : readsFrom rn' c = false := by
  cases c with
  | access b => simp_all [writesTo, readsFrom]
  | quiet | wait | reset b => cases h

theorem writesAfterIdle_cons (held : Bool) (o : Seen) (os : List Seen) :
    writesAfterIdle held (o :: os) = (!(held && isWrite o.cycle) && writesAfterIdle (commandHeld held o) os) := rfl

/-- What the host sees of a step, in terms of the state before it. -/
theorem commandHeld_of_step (held : Bool) {s t : State} (h : step s = .next t) :
    commandHeld held ⟨presented s, t.rdata⟩
      = ((held || writesTo 0x002 (presented s))
          && !(readsFrom 0x003 (presented s) && decide (s.phase ≠ .busy) || isReset (presented s))) := by
  rw [commandHeld, heldAfter, seesIdle_of_step h]

/-- `waitsForCommands`, at the cycle presented. -/
theorem waitsForCommands_presented {held : Bool} {s : State} (h : waitsForCommands held s.host = true) :
    (!(held && isWrite (presented s))) = true
      ∧ waitsForCommands ((held || writesTo 0x002 (presented s)) && !(presented s == .wait) && !isReset (presented s)) s.host.tail
        = true := by
  match hh : s.host with
  | [] => simp [presented, hh, isWrite, waitsForCommands]
  | c :: rest =>
    rw [hh, waitsForCommands, Bool.and_eq_true] at h
    rw [presented, hh]
    exact h

/-- A program that waits still does after a step, from what the host has seen by then. -/
theorem waitsForCommands_step {held : Bool} {s t : State} (h : waitsForCommands held s.host = true) (hs : step s = .next t) :
    waitsForCommands (commandHeld held ⟨presented s, t.rdata⟩) t.host = true := by
  rw [step_host hs, commandHeld_of_step held hs]
  split
  case isTrue hw =>
    refine waitsForCommands_mono (fun hp => ?_) _ h
    simp only [hw.1, writesTo, Bool.or_false, Bool.and_eq_true] at hp
    exact hp.1
  case isFalse hw =>
    refine waitsForCommands_mono (fun hp => ?_) _ (waitsForCommands_presented h).2
    by_cases hc : presented s = .wait
    · have hidle : s.phase ≠ .busy := fun hb => hw ⟨hc, hb⟩
      simp [hc, hidle, readsFrom] at hp
    · simp only [Bool.and_eq_true, Bool.not_eq_true', Bool.or_eq_false_iff] at hp ⊢
      obtain ⟨hheld, -, hreset⟩ := hp
      exact ⟨⟨hheld, beq_false_of_ne hc⟩, hreset⟩

/-- A program that waits for its commands keeps the duty in every run. -/
theorem writesAfterIdle_of_waitsForCommands (n : Nat) {held : Bool} {s : State} (h : waitsForCommands held s.host = true) :
    writesAfterIdle held (observed n s) = true := by
  induction n generalizing held s with
  | zero => rfl
  | succ n ih =>
    cases hs : step s with
    | next t =>
      rw [observed_succ hs, writesAfterIdle_cons, (waitsForCommands_presented h).1, ih (waitsForCommands_step h hs)]
      rfl
    | fault r => cases r
    | refused r =>
      rw [observed, hs]
      rfl

/-- While the block is in BUSY the host is held back: a command holds it, and nothing it sees in BUSY frees it. -/
theorem commandHeld_of_busy {held : Bool} {s t : State} (hh : s.phase = .busy → held = true) (hs : step s = .next t)
    (hb : t.phase = .busy) : commandHeld held ⟨presented s, t.rdata⟩ = true := by
  obtain ⟨hr, hstart⟩ := busy_after_step hs hb
  rw [commandHeld_of_step held hs, hr]
  by_cases hp : s.phase = .busy
  · simp [hh hp, hp]
  · have hw := hstart.resolve_left hp
    rw [hw, readsFrom_of_writesTo hw, Bool.or_true]
    rfl

/-- A host that is held back whenever the block is in BUSY, and keeps the duty, writes nothing in BUSY. -/
theorem not_busy_of_writesAfterIdle (n : Nat) {held : Bool} {s t : State} (hh : s.phase = .busy → held = true)
    (hd : writesAfterIdle held (observed (n + 1) s) = true) (ht : Sys2Proof.core.run n s = .next t)
    (hw : isWrite (presented t) = true) : t.phase ≠ .busy := by
  induction n generalizing held s with
  | zero =>
    cases ht
    intro hb
    obtain ⟨u, hu⟩ := step_busy_answers hb
    rw [observed_succ hu, writesAfterIdle_cons, hh hb, hw] at hd
    cases hd
  | succ n ih =>
    cases hs : step s with
    | next u =>
      rw [observed_succ hs, writesAfterIdle_cons, Bool.and_eq_true] at hd
      rw [run_succ hs] at ht
      exact ih (commandHeld_of_busy hh hs) hd.2 ht
    | fault r => cases r
    | refused r =>
      have hs' : Sys2Proof.core.step s = .refused r := hs
      simp only [Host.Core.run, hs'] at ht
      cases ht

/-- Settles O58, by induction on the run for each clause; no command is in flight at its start. -/
theorem waitingHostNeverWritesWhileBusy : Obligations.WaitingHostNeverWritesWhileBusy := fun _ n hp =>
  ⟨writesAfterIdle_of_waitsForCommands n, fun hd _ ht hw => not_busy_of_writesAfterIdle n (fun hb => absurd hb hp) hd ht hw⟩

end Sys2Proof.Machine
end

section
/-! PROOFS. What the host reads under a validity flag is what the flag promises (46_driver_contract.md R206, R210, R211;
70_reset_and_hazards.md R259). -/

namespace Sys2Proof.Machine

/-! ## The read windows in IDLE (10_state.md R54, 20_memory.md R71) -/

/-- A byte or an index read from the port, cut to its own width again. -/
theorem setWidth_setWidth_half {w : Nat} (hw : w ≤ 16) (x : BitVec w) : (x.setWidth 16).setWidth w = x := by
  rw [BitVec.setWidth_setWidth_of_le _ hw, BitVec.setWidth_eq]

/-- A register narrower than the port reads as its own number. -/
theorem toNat_regRead_idle {w : Nat} {x : BitVec w} {s : State} {rn : RegNum} (hp : s.phase = .idle) (hw : w ≤ 16)
    (hv : regValue s rn = x.setWidth 16) : (regRead s rn).toNat = x.toNat := by
  rw [regRead_idle _ hp, hv, BitVec.toNat_setWidth_of_le hw]

/-- A window of a register file read in IDLE gives the file's leading entries. -/
theorem map_readWindow {w n base k : Nat} {s : State} (hp : s.phase = .idle) (hw : w ≤ 16) (v : Vector (BitVec w) n)
    (hv : ∀ i : Fin n, regValue s (BitVec.ofNat 9 (base + i)) = v[i].setWidth 16) (hk : k ≤ n) :
    ((readWindow s base k).map fun x => x.setWidth w) = v.toList.take k := by
  refine List.ext_getElem (by simp [readWindow, hk]) fun i h1 _ => ?_
  have hi : i < k := by simpa [readWindow] using h1
  have hreg := hv ⟨i, hi.trans_le hk⟩
  simp only [readWindow, List.getElem_map, List.getElem_range, regRead_idle _ hp, hreg]
  simp [setWidth_setWidth_half hw]

theorem readEntropy_idle {s : State} (hp : s.phase = .idle) (he : s.elen.toNat ≤ 32) : readEntropy s = entropyOf s := by
  have hlen : (regRead s 0x008).toNat = s.elen.toNat := toNat_regRead_idle hp (by decide) rfl
  rw [readEntropy, hlen, Nat.min_eq_left he, map_readWindow hp (by decide) s.ent (regValue_ent s) he, entropyOf_eq_take s he]

theorem readIndices_idle {s : State} (hp : s.phase = .idle) : readIndices s = indicesOf s := by
  have hlen : (regRead s 0x009).toNat = s.wcnt.toNat := toNat_regRead_idle hp (by decide) rfl
  rw [readIndices, hlen, map_readWindow hp (by decide) s.idx (regValue_idx s) (Nat.min_le_right _ _), indicesOf,
    List.take_eq_take_min (i := s.wcnt.toNat), Vector.length_toList]

theorem readSeed_idle {s : State} (hp : s.phase = .idle) : readSeed s = s.seed.toList := by
  rw [readSeed, map_readWindow hp (by decide) s.seed (regValue_seed s) le_rfl, List.take_of_length_le (by rw [Vector.length_toList])]

/-- SEP is the separator of the language selected (R44, R202). -/
theorem ofNat_sepWord {s : State} {g : Language} (h : s.lang = languageCode g) : Char.ofNat (sepWord s).toNat = separatorOf g := by
  rw [sepWord, h]
  cases g <;> rfl

/-! ## A read checked by its flag -/

theorem checkedRead_eq_some {α : Type} {flag : Nat} {read : State → α} {s : State} {v : α}
    (h : (checkedRead flag read s).2 = some v) : (statusWord s).getLsbD flag = true ∧ read s = v := by
  rw [checkedRead, regRead_status] at h
  simpa using h

/-! ## Every read under its flag, from clean idle (R53, R259) -/

section
variable {s : State} (hc : CleanIdle s)
include hc

theorem checkedEntropy_true {e : List Byte} (h : (checkedEntropy s).2 = some e) :
    e = entropyOf s ∧ e.length ∈ [16, 20, 24, 28, 32] := by
  obtain ⟨hflag, rfl⟩ := checkedRead_eq_some h
  obtain ⟨hev, -⟩ := statusWord_validity s
  obtain ⟨hl, -, -⟩ := hc.2.entropyValid (hev ▸ hflag)
  rw [tripleOfElen_isSome_iff] at hl
  rw [readEntropy_idle hc.1 (le_32_of_legal hl), length_entropyOf]
  exact ⟨rfl, hl⟩

theorem checkedChecksum_true {cs c : Half} (h : (checkedChecksum s).2 = some (cs, c)) :
    cs.toNat = s.elen.toNat / 4 ∧ c.toNat = (checksum Config.sha256 (entropyOf s)).2 := by
  obtain ⟨hflag, hread⟩ := checkedRead_eq_some h
  obtain ⟨hev, -⟩ := statusWord_validity s
  obtain ⟨-, hcs, hsum⟩ := hc.2.entropyValid (hev ▸ hflag)
  cases hread
  exact ⟨(toNat_regRead_idle hc.1 (by decide) rfl).trans hcs, (toNat_regRead_idle hc.1 (by decide) rfl).trans hsum⟩

theorem checkedIndices_true {ns : List Idx} (h : (checkedIndices s).2 = some ns) :
    ns = indices Config.sha256 (entropyOf s) := by
  obtain ⟨hflag, rfl⟩ := checkedRead_eq_some h
  obtain ⟨-, hiv, -⟩ := statusWord_validity s
  obtain ⟨-, -, -, hind⟩ := hc.2.indicesValid (hiv ▸ hflag)
  rw [readIndices_idle hc.1, hind]

theorem checkedSentence_true {word : Wordlists} {g : Language} {text : List Char} (hl : s.lang = languageCode g)
    (h : (checkedSentence word g s).2 = some text) :
    text = joinWords (separatorOf g) ((indices Config.sha256 (entropyOf s)).map (word g)) := by
  obtain ⟨hflag, rfl⟩ := checkedRead_eq_some h
  obtain ⟨-, hiv, -⟩ := statusWord_validity s
  obtain ⟨-, -, -, hind⟩ := hc.2.indicesValid (hiv ▸ hflag)
  have hsep : regRead s 0x007 = sepWord s := regRead_of_alwaysReadable (by decide)
  rw [readSentence, hsep, ofNat_sepWord hl, readIndices_idle hc.1, hind]

theorem checkedStrip_true {x : Half} {ok : Bool} (h : (checkedStrip s).2 = some (x, ok)) :
    ∃ u, unpackHeld s = some u ∧ x.toNat = u.x ∧ ok = ((checksum Config.sha256 u.ent).2 == u.x)
      ∧ (s.evalid = true → entropyOf s = u.ent) := by
  obtain ⟨hflag, hread⟩ := checkedRead_eq_some h
  obtain ⟨-, -, hdv, hok, -⟩ := statusWord_validity s
  obtain ⟨-, u, hu, hecs, hcsok, hent⟩ := hc.2.stripValid (hdv ▸ hflag)
  rw [readStrip, regRead_status, hok] at hread
  cases hread
  exact ⟨u, hu, (toNat_regRead_idle hc.1 (by decide) rfl).trans hecs, hcsok, hent⟩

theorem checkedSeed_true {k : List Byte} (h : (checkedSeed s).2 = some k) :
    k = (Config.pbkdf2 (entropyOf s) (saltOf s) 2048 64).toList := by
  obtain ⟨hflag, rfl⟩ := checkedRead_eq_some h
  obtain ⟨-, -, -, -, hsv⟩ := statusWord_validity s
  obtain ⟨-, -, hseed⟩ := hc.2.seedValid (hsv ▸ hflag)
  rw [readSeed_idle hc.1, hseed]

end

/-- Settles O59, from the clause of the invariants behind each flag. -/
theorem checkedResultsAreTrue : Obligations.CheckedResultsAreTrue := fun _ hc =>
  ⟨fun _ => checkedEntropy_true hc, fun _ _ => checkedChecksum_true hc, fun _ => checkedIndices_true hc,
    fun _ _ _ => checkedSentence_true hc, fun _ _ => checkedStrip_true hc, fun _ => checkedSeed_true hc⟩

end Sys2Proof.Machine
end

section
/-! PROOFS. The interrupt line, and that no state stops the machine (60_exceptions.md R238, R244). -/

namespace Sys2Proof.Machine

/-! ## IE through the completion of a command (10_state.md R38) -/

/-- Both outcomes of a test with one value of IE: the outcome has it. -/
theorem ite_ie {c : Prop} [Decidable c] {s t : State} {b : Bool} (hs : s.ie = b) (ht : t.ie = b) :
    (if c then s else t).ie = b := by split <;> assumption

theorem raise_ie (e : CommandError) (s : State) : (raise e s).ie = s.ie := by
  cases e
  case internalInvariantViolation => exact enterFault_ie _ s
  all_goals exact failWith_ie _ s

theorem decodeHeld_ie (sha : List Byte → Digest) (s : State) : (decodeHeld sha s).ie = s.ie := by
  refine ite_ie (raise_ie _ s) ?_
  split
  · exact ite_ie (raise_ie _ _) rfl
  · exact raise_ie _ s

theorem clearGroups_ie (m : BitVec 4) (s : State) : (clearGroups m s).ie = s.ie := by
  simp only [clearGroups, apply_ite State.ie, clearE_ie, clearI_ie, clearP_ie, invalidateS_ie, ite_self]

/-- No command writes IE, the fatal error included (R236). -/
theorem completionEffect_ie (i : Instr) (s : State) : (completionEffect i s).ie = s.ie := by
  cases i
  case loade => exact ite_ie rfl (raise_ie _ s)
  case encode => exact ite_ie (raise_ie _ s) (ite_ie (raise_ie _ s) rfl)
  case decode => exact decodeHeld_ie _ s
  case verify => exact ite_ie (raise_ie _ s) (ite_ie (raise_ie _ s) rfl)
  case seed => exact ite_ie (raise_ie _ s) (ite_ie (raise_ie _ s) rfl)
  case clr m => exact clearGroups_ie m s
  all_goals rfl

theorem latchedEffect_ie (s : State) : (latchedEffect s).ie = s.ie := by
  cases hd : decodeCmd s.opc with
  | ok i => rw [latchedEffect, hd, completionEffect_ie]
  | error r => rw [latchedEffect, hd, failWith_ie]

/-! ## The interrupt line (60_exceptions.md R238) -/

theorem irq_of_completed {s : State} (h : Completed s) : irq s = s.ie := by
  obtain ⟨-, hdone⟩ := h
  rw [irq, hdone, Bool.and_true]

theorem irq_of_not_done {s : State} (h : s.done = false) : irq s = false := by
  rw [irq, h, Bool.and_false]

theorem accept_done (w : CmdWord) (s : State) : (accept w s).done = false := by
  cases hd : decodeCmd w with
  | error r => rw [accept_error hd]
  | ok i =>
    obtain ⟨k, hk⟩ := accept_ok hd s
    rw [hk, acceptInvalidate_latch]

theorem resetEdge_done (b : Option BusWord) (s : State) : (resetEdge b s).done = false := by
  cases b with
  | none => rfl
  | some w => exact (apply_ite State.done _ _ _).trans (ite_self _)

/-- In IDLE a host write has its effect (R72). -/
theorem exec_write_idle {i : Instr} (hi : isCommand i = false) (hr : ∀ rn, i ≠ .rd rn) {s : State} (hp : s.phase = .idle) :
    exec i s = .next (writeEffect i s) := (exec_write hi hr s).trans (hostWrite_idle _ hp)

/-- A cycle in FAULT without reset changes the host's own fields alone (20_memory.md R77). -/
theorem step_fault {s : State} (hp : s.phase = .fault) (hr : ∀ b rest, s.host ≠ .reset b :: rest) :
    ∃ v h, step s = .next { s with rdata := v, host := h } := by
  obtain ⟨v, h, heq, -⟩ := hostPart_not_idle (s := s) (by simp [hp])
  refine ⟨v, h, ?_⟩
  rw [step_of_not_reset hr, if_neg (by simp [hp]), andThen_next, heq]

/-- Settles O34: a completion sets DONE and leaves IE; ACK, acceptance and reset clear DONE, WRCTRL clears IE; and a step in FAULT
writes neither. -/
theorem interruptLineFollowsDoneAndIe : Obligations.InterruptLineFollowsDoneAndIe := by
  refine fun s => ⟨rfl, fun hb i t hi ht => ?command, fun hb t ht => ?latched, fun hp t ht => ?ack, fun hp w t ht => ?accepted,
    fun hp st t ht => ?ieCleared, fun b rest t hh ht => ?reset, fun hp hr t ht => ?fault⟩
  case command =>
    rw [exec_busy hi hb] at ht
    cases ht
    rw [irq_of_completed (completed_completionEffect hi s), completionEffect_ie]
  case latched =>
    rw [completeLatched_busy hb] at ht
    cases ht
    rw [irq_of_completed (completed_latchedEffect s), latchedEffect_ie]
  case ack =>
    rw [exec_write_idle rfl (by simp) hp] at ht
    cases ht
    exact irq_of_not_done rfl
  case accepted =>
    rw [exec_cmdwr_idle w hp] at ht
    cases ht
    exact irq_of_not_done (accept_done w s)
  case ieCleared =>
    rw [exec_write_idle rfl (by simp) hp] at ht
    cases ht
    exact Bool.false_and _
  case reset =>
    rw [step_reset hh] at ht
    cases ht
    exact irq_of_not_done (resetEdge_done b _)
  case fault =>
    obtain ⟨v, h, hstep⟩ := step_fault hp hr
    rw [hstep] at ht
    cases ht
    rfl

/-! ## Every part of a cycle answers (60_exceptions.md R244) -/

/-- Every instruction has a meaning in every phase. -/
theorem exec_answers (i : Instr) (s : State) : ∃ t, exec i s = .next t := by
  cases hi : isCommand i with
  | true => exact ⟨_, exec_command hi s⟩
  | false =>
    by_cases hr : ∃ rn, i = .rd rn
    · obtain ⟨rn, rfl⟩ := hr
      exact ⟨_, rfl⟩
    · exact ⟨_, exec_write hi (by simpa using hr) s⟩

theorem hostAccess_answers (b : BusWord) (s : State) : ∃ t, hostAccess b s = .next t := by
  unfold hostAccess
  split
  · exact exec_answers _ s
  · exact ⟨s, rfl⟩

theorem hostPart_answers (s : State) : ∃ t, hostPart s = .next t := by
  match hh : s.host with
  | [] | .quiet :: _ | .reset _ :: _ =>
    rw [hostPart, hh]
    exact ⟨_, rfl⟩
  | .access b :: rest =>
    rw [hostPart, hh]
    exact hostAccess_answers b _
  | .wait :: _ => exact ⟨_, hostPart_wait hh⟩

/-- Settles O40: BUSY is known; in IDLE and FAULT the step is the reset edge or the host's part alone. -/
theorem everyStateHasANextState : Obligations.EveryStateHasANextState := by
  intro s
  by_cases hb : s.phase = .busy
  · exact step_busy_answers hb
  · by_cases hr : ∃ b rest, s.host = .reset b :: rest
    · obtain ⟨b, rest, hh⟩ := hr
      exact ⟨_, step_reset hh⟩
    · rw [step_of_not_reset (by simpa using hr), if_neg hb, andThen_next]
      exact hostPart_answers s

end Sys2Proof.Machine
end

section
/-! PROOFS. An edge with `rst` = 1, and a command whose oracle never answers (70_reset_and_hazards.md R250, R251, R262). -/

namespace Sys2Proof.Machine

/-! ## The reset edge -/

/-- Beside resetting the block, the edge writes at most the value the host holds of `h_rdata`. -/
theorem resetEdge_eq_resetBlock (b : Option BusWord) (s : State) :
    resetEdge b s = { resetBlock s with rdata := (resetEdge b s).rdata } := by
  cases b with
  | none => rfl
  | some w =>
    simp only [resetEdge]
    split <;> rfl

/-- It writes that value for a read alone (R251). -/
theorem resetEdge_rdata_of_not_read {b : Option BusWord} (hb : ∀ w, b = some w → busWe w = true) (s : State) :
    (resetEdge b s).rdata = s.rdata := by
  cases b with
  | none => rfl
  | some w => rw [resetEdge, if_pos (hb w rfl), resetBlock_rdata]

theorem resetEdge_fresh (b : Option BusWord) (s : State) : (resetEdge b s).fresh = s.fresh + 1 := by
  rw [resetEdge_eq_resetBlock, resetBlock_fresh]

/-- Settles O2: the step is the reset edge, after which the block is reset but for `h_rdata`, and the counter has moved on. -/
theorem resetEdgeClearsTheBlock : Obligations.ResetEdgeClearsTheBlock := by
  intro s b rest hh
  refine ⟨_, step_reset hh, ?_, fun hb => resetEdge_rdata_of_not_read hb _⟩
  rw [resetEdge_fresh]
  exact resetEdge_eq_resetBlock b _

/-! ## A command that hangs -/

/-- A cycle of a wait without end: no register changes, and the wait goes on. -/
theorem step_hangs {s : State} (hb : s.phase = .busy) (hw : s.wait = none) (hn : NoReset s) :
    ∃ t, step s = .next t ∧ SameBlock s t ∧ t.phase = .busy ∧ t.wait = none ∧ NoReset t := by
  obtain ⟨v, h, heq, hsub⟩ := step_busy hb hn.not_reset_first
  exact ⟨_, heq.trans (sequencerPart_hangs hw), rfl, hb, hw, fun c hc => hn c (hsub c hc)⟩

/-- Settles O42, by induction on the number of steps: each is a cycle of the wait. -/
theorem commandHangsWhenAnOracleNeverAnswers : Obligations.CommandHangsWhenAnOracleNeverAnswers := by
  intro n
  induction n with
  | zero => exact fun s _ hw _ => ⟨s, rfl, rfl, hw⟩
  | succ n ih =>
    intro s hb hw hn
    obtain ⟨t, hstep, hst, hb', hw', hn'⟩ := step_hangs hb hw hn
    obtain ⟨u, hrun, htu, hwu⟩ := ih t hb' hw' hn'
    exact ⟨u, (run_succ hstep n).trans hrun, hst.trans htu, hwu⟩

end Sys2Proof.Machine
end

section
/-! PROOFS. FAULT (60_exceptions.md R236). -/

namespace Sys2Proof.Machine

/-- Settles O3: such a step changes the host's own fields alone, which are no part of the block. -/
theorem faultIsLeftOnlyByReset : Obligations.FaultIsLeftOnlyByReset := by
  intro s t hp hr hs
  obtain ⟨v, h, hstep⟩ := step_fault hp hr
  rw [hstep] at hs
  cases hs
  exact ⟨rfl, hp, rfl⟩

end Sys2Proof.Machine
end
